-- ==== Sys2Proof/Word.lean ====
section
/-! DEFINITION. The plain types of the hardware: a stream byte, a Pixel and the pixel of the destination. -/

namespace Sys2Proof

/-- A byte of the chunk stream; bit 7 is the most significant (00_scope.md R7). -/
abbrev Byte := BitVec 8

/-- The Pixel of 00_scope.md R9: four 8-bit channels, a plain value copied by assignment. -/
structure Pixel where
  r : Byte
  g : Byte
  b : Byte
  a : Byte
  deriving DecidableEq, Repr, Inhabited

/-- The all-zero pixel, which a cache entry never written holds (10_state.md R12). -/
def Pixel.zero : Pixel := ⟨0#8, 0#8, 0#8, 0#8⟩

/-- A pixel in the destination's representation (20_memory.md R41). The spec says nothing of the type but that
`convert` maps into it; any representation of a pixel is some finite string of bits, and `code` numbers it.
DESIGN CHOICE (log 7), safe: nothing is known of `code`. -/
structure TargetPixel where
  code : Nat
  deriving DecidableEq, Repr, Inhabited

end Sys2Proof
end

