-- ==== Sys2Proof/Config.lean ====
section
/-! DEFINITION. What is fixed for the machine: the parameters the source fixes (00_scope.md R5), and the free values
(constants with no body) for what the spec leaves open. -/

namespace Sys2Proof.Config

/-- `PREV_INIT`, opaque black (00_scope.md R5). -/
def prevInit : Pixel := ⟨0#8, 0#8, 0#8, 255#8⟩

/-- `SEED_SLOT`, the one pre-seeded cache entry (00_scope.md R5, 10_state.md R16). -/
def seedSlot : BitVec 6 := 53#6

/-- `HASH_MUL` for R, G, B, A (00_scope.md R5). -/
def hashMulR : Nat := 3
def hashMulG : Nat := 5
def hashMulB : Nat := 7
def hashMulA : Nat := 11

/-- `RUN_MAX`: the longest run one RUN chunk encodes (00_scope.md R5). -/
def runMax : Nat := 62

/-- `OP_RGB` and `OP_RGBA`, the full-byte op-codes (00_scope.md R5). -/
def opRgb : Byte := 0xFE#8
def opRgba : Byte := 0xFF#8

/-- `END_MARKER`: the 8 bytes that close the stream (00_scope.md R5, 30_encoding.md R59). -/
def endMarker : List Byte := [0#8, 0#8, 0#8, 0#8, 0#8, 0#8, 0#8, 1#8]

/-- The conversion `fromRgba32` of the destination, an argument of the model of which only totality is assumed
(20_memory.md R41, 92_eei_decisions.md D12). No body: nothing can be proved of its values. -/
opaque convert : Pixel → TargetPixel

/-- Free value: what the caller left in a cell the block has not written (93_implementation_defined.md U8), by the
number of the decode and the cell. -/
opaque callerCell : Nat → Nat → TargetPixel

/-- Free value: what a cell holds once its decode has failed or was cut off by a reset (93_implementation_defined.md U1,
70_reset_and_hazards.md R190; log 15), by the number of the decode and the cell. -/
opaque failedCell : Nat → Nat → TargetPixel

/-- Free values: `prev`, `cache` and `pos` after a decode has ended (93_implementation_defined.md U4), by the number of
the decode. -/
opaque endedPrev : Nat → Pixel
opaque endedCache : Nat → Vector Pixel 64
opaque endedPos : Nat → BitVec 64

/-- Free values: `width`, `height` and `total` between reset and START (93_implementation_defined.md U11), by the
number of the decode. -/
opaque idleWidth : Nat → BitVec 32
opaque idleHeight : Nat → BitVec 32
opaque idleTotal : Nat → BitVec 64

end Sys2Proof.Config
end

