-- ==== Sys2Proof/Machine/State.lean ====
section
/-! DEFINITION. The state of the block, the host's moves, and the reasons a step can stop. -/

namespace Sys2Proof.Machine

/-- `phase` (10_state.md R19). -/
inductive Phase where
  | idle | chunk | endmark | done | failed
  deriving DecidableEq, Repr

/-- `cause`: which check raised the Structural Violation (60_exceptions.md R171). -/
inductive Cause where
  | noViolation
  | shortRead
  | reservedRun
  | badEndMarker
  /-- Never raised: the dispatch is total (60_exceptions.md R171, 92_eei_decisions.md D22). -/
  | badOpcode
  | runOverflow
  deriving DecidableEq, Repr

/-- `fsm`, the state of the byte-level machine (47_fsm_refinement.md R153). -/
inductive Fsm where
  /-- S_IDLE: waiting for START. -/
  | idle
  /-- S_OP: a chunk boundary, waiting for a control byte. -/
  | op
  /-- S_LIT_R, S_LIT_G, S_LIT_B, S_LIT_A: waiting for a payload byte of RGB or RGBA. -/
  | litR | litG | litB | litA
  /-- S_LUMA2: waiting for the second byte of LUMA. -/
  | luma2
  /-- S_EMIT: one pixel waits to be written. -/
  | emit
  /-- S_RUN: a run is in progress. -/
  | run
  /-- S_END: waiting for an end-marker byte. -/
  | endMark
  /-- S_DONE. -/
  | done
  /-- S_FAIL. -/
  | fail
  deriving DecidableEq, Repr

/-- The hidden latches of 47_fsm_refinement.md R152 besides `fsm`. -/
structure Latches where
  isRgba : Bool
  litR : Byte
  litG : Byte
  litB : Byte
  fdgHold : BitVec 6
  cur : Pixel
  upd : Bool
  runcnt : BitVec 6
  endcnt : BitVec 4
  deriving DecidableEq, Repr, Inhabited

/-- The latches as reset and START load them (47_fsm_refinement.md R152). -/
def Latches.initial : Latches :=
  { isRgba := false, litR := 0#8, litG := 0#8, litB := 0#8, fdgHold := 0#6, cur := Pixel.zero, upd := false,
    runcnt := 0#6, endcnt := 0#4 }

/-- Free value: the latches after a decode has ended (93_implementation_defined.md U4), by the number of the decode. -/
opaque endedLatches : Nat → Latches

/-- The input signals of one handshake cycle (47_fsm_refinement.md R150). `startStream` is no signal: it is the
sequence of bytes the host will offer after a `start` of this cycle, fixed for the whole decode (20_memory.md R31). -/
structure Inputs where
  rst : Bool
  start : Bool
  cfgWidth : BitVec 32
  cfgHeight : BitVec 32
  startStream : List Byte
  inValid : Bool
  inData : Byte
  inEos : Bool
  outReady : Bool
  deriving DecidableEq, Repr

/-- What the host does to the block before its next move (70_reset_and_hazards.md R194; log 1). -/
inductive HostMove where
  /-- START with a Header's dimensions and the stream after the header (45_end_marker.md R130). -/
  | start (width height : BitVec 32) (stream : List Byte)
  /-- Hardware reset (70_reset_and_hazards.md R190). -/
  | reset
  /-- The host ends the stream `after` bytes from here (60_exceptions.md R181). -/
  | endStream (after : Nat)
  /-- One handshake cycle with these inputs (47_fsm_refinement.md R151). -/
  | cycle (inputs : Inputs)
  /-- The host answers at once for one step of the block by itself (`State.blockStep`, log 1): a whole chunk from its
  boundary, the end check, or one event inside a chunk that a cycle has left unfinished. -/
  | chunk
  deriving DecidableEq, Repr

/-- The pixel buffer as the block has written it in this decode (20_memory.md R33): pairs of a cell's linear index and
the pixel written there, cells strictly rising. The pixel is the one on the block's output port, before `convert`
(92_eei_decisions.md D12; log 4). A cell not listed is as the caller left it. -/
abbrev Memory := List (Nat × Pixel)

/-- All the state the spec gives the block (10_state.md R10, 47_fsm_refinement.md R152), the stream and the buffer,
and the model's own `bufferVoid`, `host` and `decodes`. `phase` is computed from `fsm` (`State.phase`; log 3). -/
structure State where
  /-- The most recently materialized pixel (10_state.md R11). -/
  prev : Pixel
  /-- The pixel cache, 64 entries (10_state.md R12). -/
  cache : Vector Pixel 64
  /-- The Header's dimensions, latched at START (10_state.md R15). -/
  width : BitVec 32
  height : BitVec 32
  /-- `width × height` (10_state.md R15). -/
  total : BitVec 64
  /-- The pixel cursor (10_state.md R17). -/
  pos : BitVec 64
  /-- The stream cursor (10_state.md R18). -/
  sp : Nat
  /-- The diagnostic of the violation (10_state.md R20). -/
  cause : Cause
  /-- The state of the byte-level machine; it fixes `phase` (47_fsm_refinement.md R153). -/
  fsm : Fsm
  /-- The other hidden latches (47_fsm_refinement.md R152). -/
  latches : Latches
  /-- The chunk stream (20_memory.md R31). -/
  stream : List Byte
  /-- The pixel buffer (20_memory.md R33). -/
  buffer : Memory
  /-- The model's own: in IDLE, the cells written mean nothing, because their decode failed or a reset cut it off
  (60_exceptions.md R173, 70_reset_and_hazards.md R190; log 15). -/
  bufferVoid : Bool
  /-- The model's own: the host's pending moves, the next one first (log 1). -/
  host : List HostMove
  /-- The model's own: how many STARTs were taken; it only indexes free values (log 5). -/
  decodes : Nat
  deriving DecidableEq, Repr

/-- The cache as reset and START load it: all zero but the seeded slot (10_state.md R16). -/
def cacheInitial : Vector Pixel 64 :=
  (Vector.replicate 64 Pixel.zero).set 53 Config.prevInit

/-- The block right after hardware reset (10_state.md R25, 70_reset_and_hazards.md R190, 47_fsm_refinement.md R152).
`width`, `height` and `total` are unspecified there: 0 is a DESIGN CHOICE, unsafe (log 2). So is the stream, which the host
hands over at START: that it is empty is a DESIGN CHOICE, unsafe (log 16). -/
def State.reset : State :=
  { prev := Config.prevInit, cache := cacheInitial, width := 0#32, height := 0#32, total := 0#64, pos := 0#64,
    sp := 0, cause := .noViolation, fsm := .idle, latches := Latches.initial, stream := [], buffer := [],
    bufferVoid := false, host := [], decodes := 0 }

/-- Why the machine stops. -/
inductive Fault where
  /-- Raised by every chunk's meaning and by a pixel event when `pos >= total`: the cell to be written does not exist
  (20_memory.md R33, R38; 40_chunk_cycle.md R70). Safe: the model stops, and no run from reset reaches it. -/
  | noCellLeft
  deriving DecidableEq, Repr

/-- Why the model has no move. -/
inductive Refusal where
  /-- Raised by an arm of `exec` that has no meaning yet. Safe: the model stops. -/
  | notModelled (mnemonic : String)
  /-- Raised by a chunk's meaning away from a chunk boundary (40_chunk_cycle.md R70: its precondition; log 10).
  Safe: `step` never asks for it. -/
  | notAtChunkBoundary
  /-- Raised by END outside phase ENDMARK (45_end_marker.md R131; log 10). Safe: `step` never asks for it. -/
  | notInEndmark
  /-- Raised by START with a zero dimension (45_end_marker.md R130, 92_eei_decisions.md D8). Safe: the spec has the
  model refuse it. -/
  | startZeroDimension
  /-- Raised by START in CHUNK or ENDMARK (45_end_marker.md R130, 92_eei_decisions.md D18; log 11). Safe: the spec has
  the model refuse it. -/
  | startWhileRunning
  /-- Raised by a cycle with `in_valid` and `in_eos` both 1 (47_fsm_refinement.md R150: never; log 11). Safe: the spec
  forbids the host to do it. -/
  | validWithEos
  /-- Raised by a cycle of a running decode that offers a byte other than the stream's next (70_reset_and_hazards.md R194, R195; log 11). Safe:
  the spec has no move for it. -/
  | streamAltered
  deriving DecidableEq, Repr

end Sys2Proof.Machine
end

