-- ==== Sys2Proof/Machine/Flags.lean ====
section
/-! DEFINITION. The status the block shows. There are no condition flags and no wrap is recorded (10_state.md R21);
the only status is `phase` and `cause`, with their codes, and the handshake outputs of each state. -/

namespace Sys2Proof.Machine

/-- The 3-bit code of a phase (10_state.md R19). -/
def Phase.code : Phase → BitVec 3
  | .idle => 0#3
  | .chunk => 1#3
  | .endmark => 2#3
  | .done => 3#3
  | .failed => 4#3

/-- The 3-bit code of a cause (60_exceptions.md R171). -/
def Cause.code : Cause → BitVec 3
  | .noViolation => 0#3
  | .shortRead => 1#3
  | .reservedRun => 2#3
  | .badEndMarker => 3#3
  | .badOpcode => 4#3
  | .runOverflow => 5#3

/-- The 4-bit code of a state of the byte-level machine (47_fsm_refinement.md R153). -/
def Fsm.code : Fsm → BitVec 4
  | .idle => 0#4
  | .op => 1#4
  | .litR => 2#4
  | .litG => 3#4
  | .litB => 4#4
  | .litA => 5#4
  | .luma2 => 6#4
  | .emit => 7#4
  | .run => 8#4
  | .endMark => 9#4
  | .done => 10#4
  | .fail => 11#4

/-- The architectural phase of a state of the byte-level machine (47_fsm_refinement.md R153). -/
def Fsm.phase : Fsm → Phase
  | .idle => .idle
  | .op => .chunk
  | .litR => .chunk
  | .litG => .chunk
  | .litB => .chunk
  | .litA => .chunk
  | .luma2 => .chunk
  | .emit => .chunk
  | .run => .chunk
  | .endMark => .endmark
  | .done => .done
  | .fail => .failed

/-- `in_ready`: the block consumes a byte or the `EOS` token (47_fsm_refinement.md R153). -/
def Fsm.inReady : Fsm → Bool
  | .idle => false
  | .op => true
  | .litR => true
  | .litG => true
  | .litB => true
  | .litA => true
  | .luma2 => true
  | .emit => false
  | .run => false
  | .endMark => true
  | .done => false
  | .fail => false

/-- `out_valid`: the block offers a pixel write (47_fsm_refinement.md R153). -/
def Fsm.outValid : Fsm → Bool
  | .idle => false
  | .op => false
  | .litR => false
  | .litG => false
  | .litB => false
  | .litA => false
  | .luma2 => false
  | .emit => true
  | .run => true
  | .endMark => false
  | .done => false
  | .fail => false

/-- `phase` (10_state.md R19), a view of `fsm` (47_fsm_refinement.md R153). -/
def State.phase (s : State) : Phase := s.fsm.phase

/-- No decode runs: START is accepted and no event is possible (45_end_marker.md R130, 47_fsm_refinement.md R160). -/
def Fsm.resting : Fsm → Bool
  | .idle => true
  | .op => false
  | .litR => false
  | .litG => false
  | .litB => false
  | .litA => false
  | .luma2 => false
  | .emit => false
  | .run => false
  | .endMark => false
  | .done => true
  | .fail => true

end Sys2Proof.Machine
end

