-- ==== Sys2Proof/Machine/Operands.lean ====
section
/-! DEFINITION. Operand forms: the biased fields as integers, the channel arithmetic and the cache hash. -/

namespace Sys2Proof.Machine

/-- `(old + delta) mod 256` with the floor modulus: exact in the integers, then narrowed (40_chunk_cycle.md R77,
92_eei_decisions.md D20). -/
def addDelta (c : Byte) (d : Int) : Byte := BitVec.ofInt 8 (c.toNat + d)

/-- The true delta of a DIFF field, -2..1 (30_encoding.md R55). -/
def diffDelta (f : BitVec 2) : Int := f.toNat - 2

/-- The true green delta of LUMA, -32..31 (30_encoding.md R55). -/
def lumaGreen (f : BitVec 6) : Int := f.toNat - 32

/-- The true red-minus-green or blue-minus-green delta of LUMA, -8..7 (30_encoding.md R55). -/
def lumaRelative (f : BitVec 4) : Int := f.toNat - 8

/-- The run length of RUN, 1..62 for the reachable fields (30_encoding.md R55). -/
def runLength (fn : BitVec 6) : Nat := fn.toNat + 1

/-- The pixel DIFF makes of the previous one (43_delta_chunks.md R110). -/
def diffPixel (p : Pixel) (fr fg fb : BitVec 2) : Pixel :=
  { r := addDelta p.r (diffDelta fr), g := addDelta p.g (diffDelta fg), b := addDelta p.b (diffDelta fb), a := p.a }

/-- The pixel LUMA makes of the previous one; all three channels start from the old pixel (43_delta_chunks.md R111). -/
def lumaPixel (p : Pixel) (fdg : BitVec 6) (fdrg fdbg : BitVec 4) : Pixel :=
  { r := addDelta p.r (lumaGreen fdg + lumaRelative fdrg), g := addDelta p.g (lumaGreen fdg),
    b := addDelta p.b (lumaGreen fdg + lumaRelative fdbg), a := p.a }

/-- The cache hash, summed in the integers, modulus last (40_chunk_cycle.md R75). -/
def pixelHash (p : Pixel) : BitVec 6 :=
  BitVec.ofNat 6 (p.r.toNat * Config.hashMulR + p.g.toNat * Config.hashMulG + p.b.toNat * Config.hashMulB +
    p.a.toNat * Config.hashMulA)

end Sys2Proof.Machine
end

