-- ==== Sys2Proof/Machine/Ops.lean ====
section
/-! DEFINITION. The named operations over the buffer, the cache, the cursors and the phase: the tail every chunk
shares, the Structural Violation, START, reset, and what a host may read. -/

namespace Sys2Proof.Machine

/-! ### The pixel buffer -/

/-- Every cell of the list lies above `lo`, and cells strictly rise. -/
def Memory.risingFrom (lo : Nat) : Memory → Bool
  | [] => true
  | (p, _) :: rest => decide (lo ≤ p) && Memory.risingFrom (p + 1) rest

/-- The canonical form: cells strictly rise (log 4). An unlisted cell holds no pixel of the block's, so no entry can
equal what an unlisted cell reads as. -/
def Memory.wf (m : Memory) : Bool := Memory.risingFrom 0 m

/-- The pixel the block has written at a cell, if it has. -/
def Memory.read (m : Memory) (p : Nat) : Option Pixel :=
  match m with
  | [] => none
  | (q, px) :: rest => if q = p then some px else Memory.read rest p

/-- One pixel write, keeping cells in rising order (20_memory.md R38). -/
def Memory.write (p : Nat) (px : Pixel) (m : Memory) : Memory :=
  match m with
  | [] => [(p, px)]
  | (q, qx) :: rest =>
    if q < p then (q, qx) :: Memory.write p px rest
    else if q = p then (p, px) :: rest
    else (p, px) :: (q, qx) :: rest

/-- `n` writes of one pixel to consecutive cells, in increasing order (44_run_chunk.md R122). -/
def Memory.fill (n : Nat) (p : Nat) (px : Pixel) (m : Memory) : Memory :=
  match n with
  | 0 => m
  | k + 1 => Memory.fill k (p + 1) px (Memory.write p px m)

/-! ### Registers and cursors -/

/-- `cache[i]` (10_state.md R13). -/
def State.cacheRead (s : State) (i : BitVec 6) : Pixel := s.cache[i.toNat]'i.isLt

/-- `cache[hash(px)] <- px`, the only cache write there is (40_chunk_cycle.md R76). -/
def State.cacheWrite (px : Pixel) (s : State) : State :=
  { s with cache := s.cache.set (pixelHash px).toNat px (pixelHash px).isLt }

/-- `PixWrite(pos, px)` at the current cell (40_chunk_cycle.md R73). -/
def State.pixWrite (px : Pixel) (s : State) : State :=
  { s with buffer := Memory.write s.pos.toNat px s.buffer }

/-- `PixWrite(pos + k, prev)` for `k` in `0 .. n-1` (44_run_chunk.md R122). -/
def State.runWrite (n : Nat) (s : State) : State :=
  { s with buffer := Memory.fill n s.pos.toNat s.prev s.buffer }

/-- `prev <- px` (40_chunk_cycle.md R74). -/
def State.setPrev (px : Pixel) (s : State) : State := { s with prev := px }

/-- `sp <- sp + n`: `n` bytes are consumed (00_scope.md R8). -/
def State.consume (n : Nat) (s : State) : State := { s with sp := s.sp + n }

/-- The next state of the byte-level machine once `pos` is `p` (40_chunk_cycle.md R78). -/
def nextFsm (p total : BitVec 64) : Fsm := if p = total then .endMark else .op

/-- `advance(n)` (40_chunk_cycle.md R78). -/
def State.advance (n : Nat) (s : State) : State :=
  { s with pos := s.pos + BitVec.ofNat 64 n, fsm := nextFsm (s.pos + BitVec.ofNat 64 n) s.total }

/-- `MemRead(sp, 1)`: the next byte, or nothing for `EOS` (20_memory.md R31). -/
def State.nextByte? (s : State) : Option Byte := s.stream[s.sp]?

/-- The bytes not yet consumed. -/
def State.bytesLeft (s : State) : List Byte := s.stream.drop s.sp

/-! ### The hidden latches (47_fsm_refinement.md R152). A chunk leaves in them what its events leave (log 12) -/

/-- The latches of a literal chunk, after its payload `r`, `g`, `b` (47_fsm_refinement.md R155, R156). -/
def State.latchLiteral (isRgba : Bool) (r g b : Byte) (s : State) : State :=
  { s with latches := { s.latches with isRgba := isRgba, litR := r, litG := g, litB := b } }

/-- The latch of the first LUMA byte (47_fsm_refinement.md R155). -/
def State.latchLuma (fdg : BitVec 6) (s : State) : State :=
  { s with latches := { s.latches with fdgHold := fdg } }

/-- A pixel waits to be written, with or without a cache write (47_fsm_refinement.md R155 to R157). -/
def State.pend (px : Pixel) (upd : Bool) (s : State) : State :=
  { s with latches := { s.latches with cur := px, upd := upd } }

/-- The pixels of the run still to write (47_fsm_refinement.md R155, R158). -/
def State.latchRun (n : BitVec 6) (s : State) : State :=
  { s with latches := { s.latches with runcnt := n } }

/-! ### The tail every one-pixel chunk shares -/

/-- The cache write of a pending pixel, if it is due (40_chunk_cycle.md R76). -/
def State.cacheUpdate (upd : Bool) (px : Pixel) (s : State) : State :=
  if upd then s.cacheWrite px else s

/-- The emit-and-commit tail on the pending pixel: buffer, cache if due, `prev`, `advance(1)` (40_chunk_cycle.md R70,
R73 to R78; 47_fsm_refinement.md R157). -/
def State.commitPending (s : State) : State :=
  (((s.pixWrite s.latches.cur).cacheUpdate s.latches.upd s.latches.cur).setPrev s.latches.cur).advance 1

/-- A one-pixel chunk emits `px`; `upd` says whether it writes the cache (40_chunk_cycle.md R70). -/
def State.emit (px : Pixel) (upd : Bool) (s : State) : State := (s.pend px upd).commitPending

/-- The precondition of a chunk step: at a chunk boundary, with a cell left to fill (40_chunk_cycle.md R70, R72). -/
def atChunk (s t : State) : Host.Outcome State Fault Refusal :=
  if s.fsm = .op then
    if s.pos < s.total then .next t else .fault .noCellLeft
  else .refused .notAtChunkBoundary

/-! ### The Structural Violation -/

/-- `raise StructuralViolation(c)`: exactly `cause` and `phase`; nothing is saved and control goes nowhere
(60_exceptions.md R172). There is no return from it (R178). -/
def State.raise (c : Cause) (s : State) : State := { s with cause := c, fsm := .fail }

/-- A short read: the bytes left are consumed, `sp` stops at the stream's length (60_exceptions.md R171,
20_memory.md R36, 92_eei_decisions.md D10). -/
def State.raiseShortRead (s : State) : State := (s.consume s.bytesLeft.length).raise .shortRead

/-! ### START, reset and the end of the stream -/

/-- What START loads (45_end_marker.md R130, 10_state.md R25, 47_fsm_refinement.md R152). The buffer handed over is
the caller's: no cell of it is written, and none is known (log 4). -/
def State.startLoad (width height : BitVec 32) (stream : List Byte) (s : State) : State :=
  { s with
    width := width, height := height, total := width.setWidth 64 * height.setWidth 64, prev := Config.prevInit,
    cache := cacheInitial, pos := 0#64, sp := 0, cause := .noViolation, fsm := .op, latches := Latches.initial,
    stream := stream, buffer := [], bufferVoid := false, decodes := s.decodes + 1 }

/-- START: accepted in IDLE, DONE and FAILED, with both dimensions nonzero (45_end_marker.md R130). -/
def startDecode (width height : BitVec 32) (stream : List Byte) (s : State) : Host.Outcome State Fault Refusal :=
  if s.fsm.resting then
    if width = 0#32 ∨ height = 0#32 then .refused .startZeroDimension
    else .next (s.startLoad width height stream)
  else .refused .startWhileRunning

/-- Whether the cells of the buffer mean nothing: in FAILED (93_implementation_defined.md U1), and in IDLE after a reset
that left FAILED or cut a decode off (70_reset_and_hazards.md R190). That a reset from FAILED keeps them meaningless, and
one from DONE keeps the image, is a DESIGN CHOICE (log 15). -/
def State.cellsVoid (s : State) : Bool :=
  match s.phase with
  | .idle => s.bufferVoid
  | .chunk => false
  | .endmark => false
  | .done => false
  | .failed => true

/-- Whether the cells of the buffer mean nothing once the block is reset: they keep their meaning after DONE only
(70_reset_and_hazards.md R190, 20_memory.md R47; log 15). -/
def State.voidAfterReset (s : State) : Bool :=
  match s.phase with
  | .idle => s.bufferVoid
  | .chunk => true
  | .endmark => true
  | .done => false
  | .failed => true

/-- Hardware reset, from any state (70_reset_and_hazards.md R190). Cells already written stay written, and mean nothing
unless the decode was in DONE (log 15). `width`, `height` and `total` are unspecified until START: they take the values of
`State.reset` (log 2). The stream of an abandoned decode is dropped, and there is none until START: a DESIGN CHOICE
(log 16). -/
def State.hardReset (s : State) : State :=
  { State.reset with buffer := s.buffer, bufferVoid := s.voidAfterReset, host := s.host, decodes := s.decodes }

/-- The host lets the stream end `after` bytes from here: a read past them is a short read (60_exceptions.md R181). -/
def State.endStream (after : Nat) (s : State) : State := { s with stream := s.stream.take (s.sp + after) }

/-! ### What may be read of the block -/

/-- The state as a claim may read it: after a decode has ended, `prev`, `cache`, `pos` and the latches are any value
(93_implementation_defined.md U4), before START so are `width`, `height` and `total` (U11); free values stand there
(log 5, log 6). The buffer is read through `hostCell`. -/
def State.seen (s : State) : State :=
  match s.phase with
  | .idle =>
    { s with width := Config.idleWidth s.decodes, height := Config.idleHeight s.decodes,
             total := Config.idleTotal s.decodes }
  | .chunk => s
  | .endmark => s
  | .done =>
    { s with prev := Config.endedPrev s.decodes, cache := Config.endedCache s.decodes,
             pos := Config.endedPos s.decodes, latches := endedLatches s.decodes }
  | .failed =>
    { s with prev := Config.endedPrev s.decodes, cache := Config.endedCache s.decodes,
             pos := Config.endedPos s.decodes, latches := endedLatches s.decodes }

/-- What a cell of the caller's buffer holds: `convert` of the pixel written there (20_memory.md R41), what the caller
left if the block has not written it (93_implementation_defined.md U8). It is any value in FAILED (U1, 60_exceptions.md
R173) and, a DESIGN CHOICE (log 15), after a reset that left FAILED or cut a decode off, until the next START. -/
def State.hostCell (s : State) (p : Nat) : TargetPixel :=
  if s.cellsVoid then Config.failedCell s.decodes p
  else
    match Memory.read s.buffer p with
    | some px => Config.convert px
    | none => Config.callerCell s.decodes p

end Sys2Proof.Machine
end

