-- ==== Sys2Proof/Machine/Delta.lean ====
section
/-! DEFINITION. The delta chunks DIFF and LUMA (43_delta_chunks.md). -/

namespace Sys2Proof.Machine

/-- DIFF (43_delta_chunks.md R110). -/
def execDiff (fr fg fb : BitVec 2) (s : State) : Host.Outcome State Fault Refusal :=
  atChunk s ((s.consume 1).emit (diffPixel s.prev fr fg fb) true)

/-- LUMA (43_delta_chunks.md R111). -/
def execLuma (fdg : BitVec 6) (fdrg fdbg : BitVec 4) (s : State) : Host.Outcome State Fault Refusal :=
  atChunk s (((s.consume 2).latchLuma fdg).emit (lumaPixel s.prev fdg fdrg fdbg) true)

end Sys2Proof.Machine
end

