-- ==== Sys2Proof/Machine/EndMarker.lean ====
section
/-! DEFINITION. The end-of-stream check (45_end_marker.md R131). -/

namespace Sys2Proof.Machine

/-- The byte expected at place `i` of the end marker: 0x01 at place 7, else 0x00 (45_end_marker.md R131). -/
def expectedEndByte (i : BitVec 4) : Byte := if i = 7#4 then 0x01#8 else 0x00#8

/-- One end-marker byte `b` is consumed and compared (45_end_marker.md R131, 47_fsm_refinement.md R159). -/
def State.endByte (b : Byte) (s : State) : State :=
  if b = expectedEndByte s.latches.endcnt then
    { s.consume 1 with
      latches := { s.latches with endcnt := s.latches.endcnt + 1#4 },
      fsm := if s.latches.endcnt + 1#4 = 8#4 then .done else .endMark }
  else (s.consume 1).raise .badEndMarker

/-- At most `n` end-marker bytes, one by one in stream order, stopping at the first defect: each is first tested for
`EOS`, then compared (45_end_marker.md R131, 60_exceptions.md R176, 92_eei_decisions.md D14). -/
def State.endBytes (n : Nat) (s : State) : State :=
  match n with
  | 0 => s
  | k + 1 =>
    match s.nextByte? with
    | none => s.raise .shortRead
    | some b =>
      if (s.endByte b).fsm = .endMark then State.endBytes k (s.endByte b) else s.endByte b

/-- END: the 8 bytes of the marker (45_end_marker.md R131). -/
def execEndMarker (s : State) : Host.Outcome State Fault Refusal :=
  if s.fsm = .endMark then .next (s.endBytes 8) else .refused .notInEndmark

end Sys2Proof.Machine
end

