-- ==== Sys2Proof/Machine/Index.lean ====
section
/-! DEFINITION. The INDEX chunk (42_index_chunk.md). -/

namespace Sys2Proof.Machine

/-- INDEX: the cache entry, verbatim; no cache write, `prev` is written (42_index_chunk.md R100 to R103). -/
def execIndex (idx : BitVec 6) (s : State) : Host.Outcome State Fault Refusal :=
  atChunk s ((s.consume 1).emit (s.cacheRead idx) false)

end Sys2Proof.Machine
end

