-- ==== Sys2Proof/Machine/Literal.lean ====
section
/-! DEFINITION. The literal chunks RGB and RGBA (41_literal_chunks.md). -/

namespace Sys2Proof.Machine

/-- RGB: the payload and the alpha of `prev` (41_literal_chunks.md R90). -/
def execRgb (r g b : Byte) (s : State) : Host.Outcome State Fault Refusal :=
  atChunk s (((s.consume 4).latchLiteral false r g b).emit ⟨r, g, b, s.prev.a⟩ true)

/-- RGBA: the payload alone (41_literal_chunks.md R91). -/
def execRgba (r g b a : Byte) (s : State) : Host.Outcome State Fault Refusal :=
  atChunk s (((s.consume 5).latchLiteral true r g b).emit ⟨r, g, b, a⟩ true)

end Sys2Proof.Machine
end

