-- ==== Sys2Proof/Machine/Run.lean ====
section
/-! DEFINITION. The RUN chunk: run-length decoder and buffer writer (44_run_chunk.md). -/

namespace Sys2Proof.Machine

/-- The cells still to fill, `total − pos`. -/
def State.cellsLeft (s : State) : Nat := s.total.toNat - s.pos.toNat

/-- The run after its control byte was consumed: the reserved-length guard first, then the overflow test, then the
writes; the cache and `prev` stay (44_run_chunk.md R120 to R124, 60_exceptions.md R176). -/
def State.runChunk (fn : BitVec 6) (s : State) : State :=
  if fn = 62#6 ∨ fn = 63#6 then s.raise .reservedRun
  else if s.cellsLeft < runLength fn then s.raise .runOverflow
  else ((s.runWrite (runLength fn)).latchRun 0#6).advance (runLength fn)

/-- RUN (44_run_chunk.md R120). -/
def execRun (fn : BitVec 6) (s : State) : Host.Outcome State Fault Refusal :=
  atChunk s ((s.consume 1).runChunk fn)

end Sys2Proof.Machine
end

