-- ==== Sys2Proof/Syntax.lean ====
section
/-! DEFINITION. The instructions: the six chunk kinds and the end marker, one constructor per row of the opcode table. -/

namespace Sys2Proof

/-- An instruction with its fields as the chunk carries them, unsigned and still biased (30_encoding.md R51, R55). -/
inductive Instr where
  /-- RGB: literal red, green, blue; alpha kept (41_literal_chunks.md R90). -/
  | rgb (r g b : Byte)
  /-- RGBA: literal red, green, blue, alpha (41_literal_chunks.md R91). -/
  | rgba (r g b a : Byte)
  /-- INDEX: emit a pixel of the cache (42_index_chunk.md R100). -/
  | index (idx : BitVec 6)
  /-- DIFF: small differences to the previous pixel (43_delta_chunks.md R110). -/
  | diff (fr fg fb : BitVec 2)
  /-- LUMA: green difference, red and blue relative to it (43_delta_chunks.md R111). -/
  | luma (fdg : BitVec 6) (fdrg fdbg : BitVec 4)
  /-- RUN: repeat the previous pixel `fn + 1` times (44_run_chunk.md R120). -/
  | run (fn : BitVec 6)
  /-- END: the check of the 8-byte end marker, selected by the phase (45_end_marker.md R131). -/
  | endMarker
  deriving DecidableEq, Repr

end Sys2Proof
end

