-- ==== Sys2Proof/WellFormed.lean ====
section
/-! DEFINITION. Which instructions the encoding admits. -/

namespace Sys2Proof

/-- Every field value is legal (30_encoding.md R57) but two: a RUN carries 0..61, because 62 and 63 would be the bytes
of RGB and RGBA (R51, R56). -/
def Instr.wellFormed : Instr → Bool
  | .rgb _ _ _ => true
  | .rgba _ _ _ _ => true
  | .index _ => true
  | .diff _ _ _ => true
  | .luma _ _ _ => true
  | .run fn => decide (fn.toNat ≤ 61)
  | .endMarker => true

end Sys2Proof
end

