-- ==== Sys2Proof/Decode.lean ====
section
/-! DEFINITION. Decoding and encoding of chunks and of the end marker (30_encoding.md). -/

namespace Sys2Proof

/-- The six chunk kinds the control byte selects (30_encoding.md R53, 92_eei_decisions.md D5). -/
inductive Kind where
  | rgb | rgba | index | diff | luma | run
  deriving DecidableEq, Repr

/-- How the next bytes are read: as a chunk (phase CHUNK) or as the end marker (phase ENDMARK). Nothing else besides
the bytes changes how they are read (30_encoding.md R58). -/
inductive ReadAs where
  | chunk | endMarker
  deriving DecidableEq, Repr

/-- Why bytes are no instruction. Every control byte selects a kind (30_encoding.md R54) and every payload value is
legal (R57), so the only cause is a stream that ends too early. -/
inductive Reject where
  /-- The stream has ended before the control byte. -/
  | noControlByte
  /-- The stream ends inside the chunk. -/
  | truncated (k : Kind)
  deriving DecidableEq, Repr

/-- The ordered two-level dispatch: full byte first, then the top two bits (30_encoding.md R53). -/
def kindOf (b0 : Byte) : Kind :=
  if b0 = Config.opRgb then .rgb
  else if b0 = Config.opRgba then .rgba
  else if b0.extractLsb' 6 2 = 0b00#2 then .index
  else if b0.extractLsb' 6 2 = 0b01#2 then .diff
  else if b0.extractLsb' 6 2 = 0b10#2 then .luma
  else .run

/-- Length of a chunk in bytes, control byte included (30_encoding.md R52). -/
def Kind.length : Kind → Nat
  | .rgb => 4
  | .rgba => 5
  | .index => 1
  | .diff => 1
  | .luma => 2
  | .run => 1

/-- Length of an instruction in bytes (30_encoding.md R52, R59). -/
def Instr.length : Instr → Nat
  | .rgb _ _ _ => 4
  | .rgba _ _ _ _ => 5
  | .index _ => 1
  | .diff _ _ _ => 1
  | .luma _ _ _ => 2
  | .run _ => 1
  | .endMarker => 8

/-- How the bytes of an instruction must be read to be that instruction (30_encoding.md R58, R59). -/
def Instr.readAs : Instr → ReadAs
  | .rgb _ _ _ => .chunk
  | .rgba _ _ _ _ => .chunk
  | .index _ => .chunk
  | .diff _ _ _ => .chunk
  | .luma _ _ _ => .chunk
  | .run _ => .chunk
  | .endMarker => .endMarker

/-- The fields of the chunk formats (30_encoding.md R51), cut from the control byte and the second byte. -/
def indexField (b0 : Byte) : BitVec 6 := b0.extractLsb' 0 6
def diffRed (b0 : Byte) : BitVec 2 := b0.extractLsb' 4 2
def diffGreen (b0 : Byte) : BitVec 2 := b0.extractLsb' 2 2
def diffBlue (b0 : Byte) : BitVec 2 := b0.extractLsb' 0 2
def lumaField (b0 : Byte) : BitVec 6 := b0.extractLsb' 0 6
def lumaHigh (b1 : Byte) : BitVec 4 := b1.extractLsb' 4 4
def lumaLow (b1 : Byte) : BitVec 4 := b1.extractLsb' 0 4
def runField (b0 : Byte) : BitVec 6 := b0.extractLsb' 0 6

/-- One chunk from the bytes at a chunk boundary, and the bytes after it (30_encoding.md R50, R51). Total: the one
rejection is a stream that ends before the chunk does (40_chunk_cycle.md R71). -/
def decodeChunk : List Byte → Except Reject (Instr × List Byte)
  | [] => .error .noControlByte
  | b0 :: rest =>
    match kindOf b0 with
    | .rgb =>
      match rest with
      | r :: g :: b :: rest => .ok (.rgb r g b, rest)
      | _ => .error (.truncated .rgb)
    | .rgba =>
      match rest with
      | r :: g :: b :: a :: rest => .ok (.rgba r g b a, rest)
      | _ => .error (.truncated .rgba)
    | .index => .ok (.index (indexField b0), rest)
    | .diff => .ok (.diff (diffRed b0) (diffGreen b0) (diffBlue b0), rest)
    | .luma =>
      match rest with
      | b1 :: rest => .ok (.luma (lumaField b0) (lumaHigh b1) (lumaLow b1), rest)
      | [] => .error (.truncated .luma)
    | .run => .ok (.run (runField b0), rest)

/-- The instruction the next bytes are. In phase ENDMARK it is END whatever the bytes are: the row is selected by the
phase and not by a bit pattern (30_encoding.md R59), and END itself compares the bytes (45_end_marker.md R131). -/
def decode (as : ReadAs) (bytes : List Byte) : Except Reject (Instr × List Byte) :=
  match as with
  | .chunk => decodeChunk bytes
  | .endMarker => .ok (.endMarker, bytes.drop 8)

/-- The bytes of an instruction, written from the formats of 30_encoding.md R51 and R59. -/
def encode : Instr → List Byte
  | .rgb r g b => [Config.opRgb, r, g, b]
  | .rgba r g b a => [Config.opRgba, r, g, b, a]
  | .index idx => [0b00#2 ++ idx]
  | .diff fr fg fb => [0b01#2 ++ fr ++ fg ++ fb]
  | .luma fdg fdrg fdbg => [0b10#2 ++ fdg, fdrg ++ fdbg]
  | .run fn => [0b11#2 ++ fn]
  | .endMarker => Config.endMarker

/-- Byte `k` of a number whose bits 7..0 are the first byte. -/
def tableByte (w k : Nat) : Byte := BitVec.ofNat 8 (w / 256 ^ k)

/-- The 8 bytes (the longest instruction) of a table word of `nbits` bits, every bit from `nbits` on zero. -/
def tableBytes (nbits w : Nat) : List Byte :=
  let v := w % 2 ^ nbits
  [tableByte v 0, tableByte v 1, tableByte v 2, tableByte v 3,
   tableByte v 4, tableByte v 5, tableByte v 6, tableByte v 7]

/-- How a table word is read: only the row END has 64 bits. -/
def tableReadAs (nbits : Nat) : ReadAs :=
  if nbits = 64 then .endMarker else .chunk

/-- The instruction the decoder reads from a word numbered as the opcode table numbers it. -/
def decodeTableWord (nbits w : Nat) : Option Instr :=
  match decode (tableReadAs nbits) (tableBytes nbits w) with
  | .ok (i, _) => some i
  | .error _ => none

end Sys2Proof
end

