-- ==== Sys2Proof/Machine/Events.lean ====
section
/-! DEFINITION. The byte-level machine: one event at a time, and one handshake cycle (47_fsm_refinement.md). -/

namespace Sys2Proof.Machine

/-- A byte in S_OP, its control byte consumed: the op-code parser (47_fsm_refinement.md R155). -/
def State.opByte (b : Byte) (s : State) : State :=
  match kindOf b with
  | .rgb => { s with latches := { s.latches with isRgba := false }, fsm := .litR }
  | .rgba => { s with latches := { s.latches with isRgba := true }, fsm := .litR }
  | .index => { s.pend (s.cacheRead (indexField b)) false with fsm := .emit }
  | .diff => { s.pend (diffPixel s.prev (diffRed b) (diffGreen b) (diffBlue b)) true with fsm := .emit }
  | .luma => { s.latchLuma (lumaField b) with fsm := .luma2 }
  | .run =>
    if runField b = 62#6 ∨ runField b = 63#6 then s.raise .reservedRun
    else if s.cellsLeft < runLength (runField b) then s.raise .runOverflow
    else { s.latchRun (runField b + 1#6) with fsm := .run }

/-- The third payload byte of a literal chunk (47_fsm_refinement.md R156). -/
def State.litBByte (b : Byte) (s : State) : State :=
  if s.latches.isRgba then { s with latches := { s.latches with litB := b }, fsm := .litA }
  else
    let s' := { s with latches := { s.latches with litB := b } }
    { s'.pend ⟨s.latches.litR, s.latches.litG, b, s.prev.a⟩ true with fsm := .emit }

/-- The fourth payload byte of RGBA (47_fsm_refinement.md R156). -/
def State.litAByte (b : Byte) (s : State) : State :=
  { s.pend ⟨s.latches.litR, s.latches.litG, s.latches.litB, b⟩ true with fsm := .emit }

/-- The second byte of LUMA (47_fsm_refinement.md R157). -/
def State.luma2Byte (b : Byte) (s : State) : State :=
  { s.pend (lumaPixel s.prev s.latches.fdgHold (lumaHigh b) (lumaLow b)) true with fsm := .emit }

/-- A byte event: `b` is consumed (47_fsm_refinement.md R151, R155 to R159). Where `in_ready` is 0 no byte event can
happen and the state stays. -/
def State.byteEvent (b : Byte) (s : State) : State :=
  match s.fsm with
  | .idle => s
  | .op => (s.consume 1).opByte b
  | .litR => { s.consume 1 with latches := { s.latches with litR := b }, fsm := .litG }
  | .litG => { s.consume 1 with latches := { s.latches with litG := b }, fsm := .litB }
  | .litB => (s.consume 1).litBByte b
  | .litA => (s.consume 1).litAByte b
  | .luma2 => (s.consume 1).luma2Byte b
  | .emit => s
  | .run => s
  | .endMark => s.endByte b
  | .done => s
  | .fail => s

/-- An EOS event: the read the block waits for is a short read, and nothing else changes (47_fsm_refinement.md R154). -/
def State.eosEvent (s : State) : State := s.raise .shortRead

/-- A pixel of a run is written (47_fsm_refinement.md R158). -/
def State.runPixel (s : State) : State :=
  let w := s.pixWrite s.prev
  { w.latchRun (s.latches.runcnt - 1#6) with
    pos := s.pos + 1#64,
    fsm := if s.latches.runcnt - 1#6 = 0#6 then nextFsm (s.pos + 1#64) s.total else .run }

/-- The cell of a pixel write exists (20_memory.md R33, R38). -/
def ifCellLeft (s t : State) : Host.Outcome State Fault Refusal :=
  if s.pos < s.total then .next t else .fault .noCellLeft

/-- A pixel event: the buffer side accepts the write offered (47_fsm_refinement.md R151, R157, R158). Where
`out_valid` is 0 no pixel event can happen and the state stays. -/
def State.pixelEvent (s : State) : Host.Outcome State Fault Refusal :=
  match s.fsm with
  | .idle => .next s
  | .op => .next s
  | .litR => .next s
  | .litG => .next s
  | .litB => .next s
  | .litA => .next s
  | .luma2 => .next s
  | .emit => ifCellLeft s s.commitPending
  | .run => ifCellLeft s s.runPixel
  | .endMark => .next s
  | .done => .next s
  | .fail => .next s

/-- The next event with a host that answers at once: the stream's next byte, or `EOS`, or an accepted write
(47_fsm_refinement.md R151). -/
def State.event (s : State) : Host.Outcome State Fault Refusal :=
  if s.fsm.inReady then
    match s.nextByte? with
    | some b => .next (s.byteEvent b)
    | none => .next s.eosEvent
  else s.pixelEvent

/-- `n` events in a row, stopping at the first fault or refusal. -/
def State.events (n : Nat) (s : State) : Host.Outcome State Fault Refusal :=
  match n with
  | 0 => .next s
  | k + 1 =>
    match s.event with
    | .next t => State.events k t
    | .fault f => .fault f
    | .refused r => .refused r

/-- The host offers, in a running decode, a byte other than the stream's next, whether or not the block is ready for it
(47_fsm_refinement.md R150: `in_data` is `S[sp]`; 70_reset_and_hazards.md R194, R195). -/
def State.altersStream (i : Inputs) (s : State) : Bool :=
  !s.fsm.resting && (i.inValid && decide (s.nextByte? ≠ some i.inData))

/-- What the input signals do outside reset and START: a byte event, an EOS event, a pixel event or a stall, in which
nothing changes (47_fsm_refinement.md R151, R163). A byte other than the stream's next has no move
(70_reset_and_hazards.md R194, R195). -/
def State.handshake (i : Inputs) (s : State) : Host.Outcome State Fault Refusal :=
  if s.altersStream i then .refused .streamAltered
  else if s.fsm.inReady then
    if i.inValid then .next (s.byteEvent i.inData)
    else if i.inEos then .next s.eosEvent
    else .next s
  else if s.fsm.outValid then
    if i.outReady then s.pixelEvent else .next s
  else .next s

/-- The stream as `in_eos` leaves it: in a running decode it ends here, for good (60_exceptions.md R181; log 13). -/
def State.takeEos (i : Inputs) (s : State) : State :=
  if i.inEos && !s.fsm.resting then s.endStream 0 else s

/-- One handshake cycle (47_fsm_refinement.md R150, R151, R160). `rst` is taken before `start` (DEDUCED, log 8). -/
def State.cycle (i : Inputs) (s : State) : Host.Outcome State Fault Refusal :=
  if i.rst then .next s.hardReset
  else if i.inValid && i.inEos then .refused .validWithEos
  else if i.start then startDecode i.cfgWidth i.cfgHeight i.startStream s
  else (s.takeEos i).handshake i

/-- The outputs of a pixel write: the pixel before `convert`, its cell, row and column (47_fsm_refinement.md R150,
20_memory.md R39). -/
structure PixelOut where
  px : Pixel
  pos : BitVec 64
  row : BitVec 32
  col : BitVec 32
  deriving DecidableEq, Repr

/-- The output signals (47_fsm_refinement.md R150). `pixel` is what `out_r` to `out_col` carry while `out_valid` is 1;
otherwise the spec gives them no value (log 14). -/
structure Outputs where
  inReady : Bool
  pixel : Option PixelOut
  phase : BitVec 3
  cause : BitVec 3
  deriving DecidableEq, Repr

/-- A pixel offered at the current cell (20_memory.md R39). -/
def State.offer (px : Pixel) (s : State) : PixelOut :=
  { px := px, pos := s.pos, row := BitVec.ofNat 32 (s.pos.toNat / s.width.toNat),
    col := BitVec.ofNat 32 (s.pos.toNat % s.width.toNat) }

/-- The pixel write on the output port, if `out_valid`: `cur` in S_EMIT, `prev` in S_RUN (47_fsm_refinement.md R153). -/
def State.pixelOut (s : State) : Option PixelOut :=
  match s.fsm with
  | .idle => none
  | .op => none
  | .litR => none
  | .litG => none
  | .litB => none
  | .litA => none
  | .luma2 => none
  | .emit => some (s.offer s.latches.cur)
  | .run => some (s.offer s.prev)
  | .endMark => none
  | .done => none
  | .fail => none

/-- The output signals of a state. -/
def State.outputs (s : State) : Outputs :=
  { inReady := s.fsm.inReady, pixel := s.pixelOut, phase := s.phase.code, cause := s.cause.code }

/-- How many pixels an instruction emits (30_encoding.md R52). -/
def pixelCount : Instr → Nat
  | .rgb _ _ _ => 1
  | .rgba _ _ _ _ => 1
  | .index _ => 1
  | .diff _ _ _ => 1
  | .luma _ _ _ => 1
  | .run fn => runLength fn
  | .endMarker => 0

/-- How many events an instruction is: its bytes and its pixels (47_fsm_refinement.md R161). -/
def eventCount (i : Instr) : Nat := i.length + pixelCount i

end Sys2Proof.Machine
end

