-- ==== Sys2Proof/Machine/Block.lean ====
section
/-! DEFINITION. One step of the block, and the host's moves (40_chunk_cycle.md R70, 45_end_marker.md R134). -/

namespace Sys2Proof.Machine

/-- One chunk: fetch, decode, execute; a read past the end of the stream raises SHORT_READ and emits nothing
(40_chunk_cycle.md R70, R71). -/
def State.stepChunk (s : State) : Host.Outcome State Fault Refusal :=
  match decode .chunk s.bytesLeft with
  | .ok (i, _) => exec i s
  | .error _ => .next s.raiseShortRead

/-- The end-marker check: END is selected by the phase (30_encoding.md R59, 45_end_marker.md R131). -/
def State.stepEnd (s : State) : Host.Outcome State Fault Refusal :=
  match decode .endMarker s.bytesLeft with
  | .ok (i, _) => exec i s
  | .error _ => .next s.raiseShortRead

/-- One step of the block by itself: a chunk at a chunk boundary, the end check in ENDMARK, the next event inside a
chunk a handshake cycle has left unfinished. In IDLE, DONE and FAILED the block takes no step and nothing changes
(45_end_marker.md R132, R134). -/
def State.blockStep (s : State) : Host.Outcome State Fault Refusal :=
  match s.fsm with
  | .idle => .next s
  | .op => s.stepChunk
  | .litR => s.event
  | .litG => s.event
  | .litB => s.event
  | .litA => s.event
  | .luma2 => s.event
  | .emit => s.event
  | .run => s.event
  | .endMark => s.stepEnd
  | .done => .next s
  | .fail => .next s

/-- A move of the host (70_reset_and_hazards.md R194). -/
def State.hostMove (m : HostMove) (s : State) : Host.Outcome State Fault Refusal :=
  match m with
  | .start width height stream => startDecode width height stream s
  | .reset => .next s.hardReset
  | .endStream after => .next (s.endStream after)
  | .cycle i => s.cycle i
  | .chunk => s.blockStep

/-- The host's next move if one is pending, else a step of the block (log 1). -/
def State.moveOrStep (s : State) : Host.Outcome State Fault Refusal :=
  match s.host with
  | [] => s.blockStep
  | m :: rest => State.hostMove m { s with host := rest }

/-- The state in which `bytes` are what the block reads next, as END or as a chunk: a decode of 64 × 1 pixels on that
stream, at its first cell, or past its last for END (log 9). -/
def State.withNext (as : ReadAs) (bytes : List Byte) (s : State) : State :=
  let t := { s with width := 64#32, height := 1#32, total := 64#64, sp := 0, stream := bytes, host := [],
                    cause := .noViolation }
  match as with
  | .chunk => { t with pos := 0#64, fsm := .op }
  | .endMarker => { t with pos := 64#64, fsm := .endMark, latches := { s.latches with endcnt := 0#4 } }

end Sys2Proof.Machine
end

