-- ==== Sys2Proof/Machine/Step.lean ====
section
/-! DEFINITION. The step, and the state from which a step runs a given opcode-table word. -/

namespace Sys2Proof.Machine

/-- One step: the host's next move, or one step of the block (40_chunk_cycle.md R70, 45_end_marker.md R134). -/
def step (s : State) : Host.Outcome State Fault Refusal := s.moveOrStep

/-- `s` with that instruction where the next step fetches. -/
def State.withFetchWord (s : State) (nbits w : Nat) : State :=
  s.withNext (tableReadAs nbits) (tableBytes nbits w)

end Sys2Proof.Machine
end

