-- ==== Sys2Proof/Machine/Asm.lean ====
section
/-! DEFINITION. The assembler's notation (30_encoding.md R60). -/

namespace Sys2Proof.Machine

/-- A line of the notation, operands as written: deltas are true deltas, a run carries its length (30_encoding.md R60). -/
inductive Asm where
  | rgb (r g b : Nat)
  | rgba (r g b a : Nat)
  | index (i : Nat)
  | diff (dr dg db : Int)
  | luma (dg drg dbg : Int)
  | run (n : Nat)
  | endMarker
  | bytes (vs : List Nat)
  deriving DecidableEq, Repr

/-- An integer in a closed range. -/
def within (lo hi x : Int) : Bool := decide (lo ≤ x ∧ x ≤ hi)

/-- The bytes of a line, or nothing if an operand is out of range (30_encoding.md R60). -/
def assemble : Asm → Option (List Byte)
  | .rgb r g b =>
    if within 0 255 r && within 0 255 g && within 0 255 b then
      some [0xFE#8, BitVec.ofNat 8 r, BitVec.ofNat 8 g, BitVec.ofNat 8 b]
    else none
  | .rgba r g b a =>
    if within 0 255 r && within 0 255 g && within 0 255 b && within 0 255 a then
      some [0xFF#8, BitVec.ofNat 8 r, BitVec.ofNat 8 g, BitVec.ofNat 8 b, BitVec.ofNat 8 a]
    else none
  | .index i => if within 0 63 i then some [BitVec.ofNat 8 i] else none
  | .diff dr dg db =>
    if within (-2) 1 dr && within (-2) 1 dg && within (-2) 1 db then
      some [BitVec.ofInt 8 (0x40 + (dr + 2) * 16 + (dg + 2) * 4 + (db + 2))]
    else none
  | .luma dg drg dbg =>
    if within (-32) 31 dg && within (-8) 7 drg && within (-8) 7 dbg then
      some [BitVec.ofInt 8 (0x80 + (dg + 32)), BitVec.ofInt 8 ((drg + 8) * 16 + (dbg + 8))]
    else none
  | .run n => if within 1 62 n then some [BitVec.ofNat 8 (0xC0 + (n - 1))] else none
  | .endMarker => some [0#8, 0#8, 0#8, 0#8, 0#8, 0#8, 0#8, 1#8]
  | .bytes vs => if vs.all (fun v => within 0 255 v) then some (vs.map (BitVec.ofNat 8)) else none

/-- A program: its lines, one after another. -/
def assembleAll : List Asm → Option (List Byte)
  | [] => some []
  | a :: rest =>
    match assemble a, assembleAll rest with
    | some bs, some more => some (bs ++ more)
    | _, _ => none

/-- The line of an instruction, biases removed (30_encoding.md R60). -/
def disassemble : Instr → Asm
  | .rgb r g b => .rgb r.toNat g.toNat b.toNat
  | .rgba r g b a => .rgba r.toNat g.toNat b.toNat a.toNat
  | .index idx => .index idx.toNat
  | .diff fr fg fb => .diff (diffDelta fr) (diffDelta fg) (diffDelta fb)
  | .luma fdg fdrg fdbg => .luma (lumaGreen fdg) (lumaRelative fdrg) (lumaRelative fdbg)
  | .run fn => .run (runLength fn)
  | .endMarker => .endMarker

/-- The operands of a line, in decimal, separated by commas. -/
def operandText (xs : List Int) : String := String.intercalate ", " (xs.map toString)

/-- The text of a line (30_encoding.md R60). -/
def Asm.text : Asm → String
  | .rgb r g b => "RGB " ++ operandText [r, g, b]
  | .rgba r g b a => "RGBA " ++ operandText [r, g, b, a]
  | .index i => "INDEX " ++ operandText [i]
  | .diff dr dg db => "DIFF " ++ operandText [dr, dg, db]
  | .luma dg drg dbg => "LUMA " ++ operandText [dg, drg, dbg]
  | .run n => "RUN " ++ operandText [n]
  | .endMarker => "END"
  | .bytes vs => ".byte " ++ operandText (vs.map Int.ofNat)

end Sys2Proof.Machine
end

