-- ==== Sys2Proof/Machine/Header.lean ====
section
/-! DEFINITION. The upstream collaborator: the Header Parser and the entry points around the block
(46_header_parser.md). Outside the block (00_scope.md R4); modelled because the block's preconditions come from it. -/

namespace Sys2Proof.Machine

/-- The Header (46_header_parser.md R141, R145). -/
structure Header where
  width : BitVec 32
  height : BitVec 32
  channels : Byte
  colorspace : Byte
  deriving DecidableEq, Repr

/-- Why a file has no Header (60_exceptions.md R171: names without codes). -/
inductive HeaderCause where
  | shortRead | badMagic | zeroDimension | badChannels | badColorspace
  deriving DecidableEq, Repr

/-- "qoif" (46_header_parser.md R141; the codes are 93_implementation_defined.md G3). -/
def magic : List Byte := [0x71#8, 0x6F#8, 0x69#8, 0x66#8]

/-- A big-endian 32-bit integer (46_header_parser.md R141). -/
def be32 (b0 b1 b2 b3 : Byte) : BitVec 32 :=
  BitVec.ofNat 32 (b0.toNat * 2 ^ 24 + b1.toNat * 2 ^ 16 + b2.toNat * 2 ^ 8 + b3.toNat)

/-- The four bytes of a 32-bit integer, the most significant first (46_header_parser.md R141). -/
def be32Bytes (w : BitVec 32) : List Byte :=
  [BitVec.ofNat 8 (w.toNat / 2 ^ 24), BitVec.ofNat 8 (w.toNat / 2 ^ 16), BitVec.ofNat 8 (w.toNat / 2 ^ 8),
   BitVec.ofNat 8 w.toNat]

/-- Offsets 12 and 13: `channels`, then `colorspace` (46_header_parser.md R142). -/
def parseTail (width height : BitVec 32) (bytes : List Byte) : Except HeaderCause (Header × List Byte) :=
  match bytes with
  | [] => .error .shortRead
  | channels :: rest =>
    if channels ≠ 3#8 ∧ channels ≠ 4#8 then .error .badChannels
    else
      match rest with
      | [] => .error .shortRead
      | colorspace :: rest =>
        if colorspace ≠ 0#8 ∧ colorspace ≠ 1#8 then .error .badColorspace
        else .ok (⟨width, height, channels, colorspace⟩, rest)

/-- Offsets 4 to 11: `width` and `height` (46_header_parser.md R142). -/
def parseDimensions (bytes : List Byte) : Except HeaderCause (Header × List Byte) :=
  match bytes with
  | b4 :: b5 :: b6 :: b7 :: b8 :: b9 :: b10 :: b11 :: rest =>
    if be32 b4 b5 b6 b7 = 0#32 ∨ be32 b8 b9 b10 b11 = 0#32 then .error .zeroDimension
    else parseTail (be32 b4 b5 b6 b7) (be32 b8 b9 b10 b11) rest
  | _ => .error .shortRead

/-- `parse_header()`: the Header and the bytes after it, or the first defect (46_header_parser.md R142). -/
def parseHeader (file : List Byte) : Except HeaderCause (Header × List Byte) :=
  match file with
  | b0 :: b1 :: b2 :: b3 :: rest =>
    if [b0, b1, b2, b3] = magic then parseDimensions rest else .error .badMagic
  | _ => .error .shortRead

/-- The 14 bytes that carry a Header (20_memory.md R32). -/
def headerBytes (h : Header) : List Byte :=
  magic ++ be32Bytes h.width ++ be32Bytes h.height ++ [h.channels, h.colorspace]

/-- The bit depth of the source format, `8 × channels` (46_header_parser.md R144). -/
def Header.bitDepth (h : Header) : Nat := 8 * h.channels.toNat

/-- `identify(stream)`: reads the header alone (46_header_parser.md R146). -/
def identify (file : List Byte) : Except HeaderCause (Nat × BitVec 32 × BitVec 32) :=
  match parseHeader file with
  | .ok (h, _) => .ok (h.bitDepth, h.width, h.height)
  | .error c => .error c

/-- `decode(stream)`, as far as it meets the block: parse the header, then START on the bytes after it
(46_header_parser.md R146, 70_reset_and_hazards.md R193). The START becomes the host's last pending move; a file whose
header fails never starts the block. -/
def State.submitFile (file : List Byte) (s : State) : Except HeaderCause State :=
  match parseHeader file with
  | .ok (h, stream) => .ok { s with host := s.host ++ [.start h.width h.height stream] }
  | .error c => .error c

end Sys2Proof.Machine
end

