-- ==== Sys2Proof/Safety.lean ====
section
/-! DEFINITION. What a good end of a decode is, and the invariants of the block. -/

namespace Sys2Proof.Machine

/-- A decode has ended (45_end_marker.md R135). -/
def State.ended (s : State) : Prop := s.phase = .done ∨ s.phase = .failed

/-- The good end: the only state of which the image may be claimed (45_end_marker.md R135). -/
def State.good (s : State) : Prop := s.phase = .done

/-- The buffer keeps its canonical form. -/
def BufferInv (s : State) : Prop := Memory.wf s.buffer = true

/-- Every cache entry is the zero pixel or lies at its own hash (10_state.md R14 item 1). -/
def CacheInv (s : State) : Prop := ∀ i : BitVec 6, s.cacheRead i = Pixel.zero ∨ pixelHash (s.cacheRead i) = i

/-- `cause` is NONE unless `phase` is FAILED (10_state.md R20). -/
def CauseInv (s : State) : Prop := s.cause = .noViolation ↔ s.phase ≠ .failed

/-- The stream cursor never passes the end of the stream (10_state.md R18, 20_memory.md R31). -/
def CursorInv (s : State) : Prop := s.sp ≤ s.stream.length

/-- While a decode runs or has ended, the dimensions are nonzero and `total` is their product (10_state.md R15). -/
def SizeInv (s : State) : Prop :=
  s.phase ≠ .idle →
    s.width ≠ 0#32 ∧ s.height ≠ 0#32 ∧ s.total.toNat = s.width.toNat * s.height.toNat

/-- A chunk is due or in progress: a cell is left, and no end-marker byte was taken (10_state.md R19,
47_fsm_refinement.md R152). -/
def State.chunkDue (s : State) : Prop := s.pos < s.total ∧ s.latches.endcnt = 0#4

/-- How `pos`, `total`, the run counter and the end counter lie in each state of the byte-level machine
(10_state.md R17, R19; 47_fsm_refinement.md R152, R158). -/
def ProgressInv (s : State) : Prop :=
  match s.fsm with
  | .idle => s.pos = 0#64
  | .op => s.chunkDue
  | .litR => s.chunkDue
  | .litG => s.chunkDue
  | .litB => s.chunkDue
  | .litA => s.chunkDue
  | .luma2 => s.chunkDue
  | .emit => s.chunkDue
  | .run => s.chunkDue ∧ 0 < s.latches.runcnt.toNat ∧ s.latches.runcnt.toNat ≤ 62 ∧
      s.pos.toNat + s.latches.runcnt.toNat ≤ s.total.toNat
  | .endMark => s.pos = s.total ∧ s.latches.endcnt.toNat ≤ 7
  | .done => s.pos = s.total ∧ s.latches.endcnt = 8#4
  | .fail => s.pos ≤ s.total

/-- In CHUNK, ENDMARK and DONE the cells written are exactly `0 .. pos-1`, each once, in order (20_memory.md R38). -/
def RasterInv (s : State) : Prop :=
  (s.phase = .chunk ∨ s.phase = .endmark ∨ s.phase = .done) → s.buffer.map Prod.fst = List.range s.pos.toNat

/-- In CHUNK and ENDMARK `prev` is the pixel of the last cell written, or the initial pixel before the first
(40_chunk_cycle.md R74). -/
def LastPixelInv (s : State) : Prop :=
  (s.phase = .chunk ∨ s.phase = .endmark) →
    if s.pos = 0#64 then s.prev = Config.prevInit else Memory.read s.buffer (s.pos.toNat - 1) = some s.prev

/-- The sizes, the cursors and the cells written agree. -/
def DecodeInv (s : State) : Prop := SizeInv s ∧ ProgressInv s ∧ RasterInv s

/-- What a chunk of `n` bytes that emits the one pixel `px` does, and that it does nothing else; `upd` says whether it
writes the cache (40_chunk_cycle.md R70, R73, R74, R76, R78). Of the hidden latches only `endcnt` is named: no end-marker byte
is taken; the others have no meaning at a chunk boundary (47_fsm_refinement.md R152). -/
structure EmitsOne (n : Nat) (px : Pixel) (upd : Bool) (s t : State) : Prop where
  prev : t.prev = px
  cache : ∀ i : BitVec 6, t.cacheRead i = if upd = true ∧ i = pixelHash px then px else s.cacheRead i
  cell : t.hostCell s.pos.toNat = Config.convert px
  buffer : ∀ p : Nat, Memory.read t.buffer p = if p = s.pos.toNat then some px else Memory.read s.buffer p
  pos : t.pos = s.pos + 1#64
  sp : t.sp = s.sp + n
  phase : t.fsm = if s.pos + 1#64 = s.total then .endMark else .op
  width : t.width = s.width
  height : t.height = s.height
  total : t.total = s.total
  cause : t.cause = s.cause
  endcnt : t.latches.endcnt = s.latches.endcnt
  stream : t.stream = s.stream
  bufferVoid : t.bufferVoid = s.bufferVoid
  host : t.host = s.host
  decodes : t.decodes = s.decodes

/-- What a run of `n` pixels does, and that it does nothing else: `n` cells from `pos` on receive `prev`, neither the
cache nor `prev` is written (44_run_chunk.md R120, R122, R124). -/
structure EmitsRun (n : Nat) (s t : State) : Prop where
  prev : t.prev = s.prev
  cache : t.cache = s.cache
  cell : ∀ k : Nat, k < n → t.hostCell (s.pos.toNat + k) = Config.convert s.prev
  buffer : ∀ p : Nat, Memory.read t.buffer p =
    if s.pos.toNat ≤ p ∧ p < s.pos.toNat + n then some s.prev else Memory.read s.buffer p
  pos : t.pos.toNat = s.pos.toNat + n
  sp : t.sp = s.sp + 1
  phase : t.fsm = if s.pos.toNat + n = s.total.toNat then .endMark else .op
  width : t.width = s.width
  height : t.height = s.height
  total : t.total = s.total
  cause : t.cause = s.cause
  endcnt : t.latches.endcnt = s.latches.endcnt
  stream : t.stream = s.stream
  bufferVoid : t.bufferVoid = s.bufferVoid
  host : t.host = s.host
  decodes : t.decodes = s.decodes

/-- What END leaves unchanged, whether the marker is right, wrong or cut short: no pixel is written, and `prev`, the
cache and `pos` stay (45_end_marker.md R131 corner case 4). -/
structure EndFrame (s t : State) : Prop where
  prev : t.prev = s.prev
  cache : t.cache = s.cache
  buffer : t.buffer = s.buffer
  pos : t.pos = s.pos
  width : t.width = s.width
  height : t.height = s.height
  total : t.total = s.total
  stream : t.stream = s.stream
  bufferVoid : t.bufferVoid = s.bufferVoid
  host : t.host = s.host
  decodes : t.decodes = s.decodes

/-- The block's own state, less the model's `host` list and decode number. -/
def SameBlock (s t : State) : Prop := { s with host := t.host, decodes := t.decodes } = t

end Sys2Proof.Machine
end

