-- ==== Sys2Proof/Certificates/Slice0/Obligations.lean ====
section
/-! DEFINITION. The statements for the provers, from the numbered rules of the spec. -/

open Sys2Proof Sys2Proof.Machine

/-! ### Reset and START -/

/-- R190: hardware reset from any state, the hidden latches of R152 included; cells already written stay written. The
values of `width`, `height`, `total` are unspecified and not stated. -/
def Obligations.HardResetLoads : Prop :=
  (∀ s : State,
    s.hardReset.prev = ⟨0#8, 0#8, 0#8, 255#8⟩ ∧
    (∀ i : BitVec 6, s.hardReset.cacheRead i = if i = 53#6 then ⟨0#8, 0#8, 0#8, 255#8⟩ else ⟨0#8, 0#8, 0#8, 0#8⟩) ∧
    s.hardReset.pos = 0#64 ∧ s.hardReset.sp = 0 ∧ s.hardReset.cause = .noViolation ∧ s.hardReset.phase = .idle ∧
    s.hardReset.fsm = .idle ∧ s.hardReset.latches =
      ⟨false, 0#8, 0#8, 0#8, 0#6, ⟨0#8, 0#8, 0#8, 0#8⟩, false, 0#6, 0#4⟩ ∧ s.hardReset.buffer = s.buffer) ∧
  (∀ (s : State) (rest : List HostMove), s.host = .reset :: rest →
    step s = .next { s with host := rest }.hardReset)

/-- R25: the value of every piece of state after hardware reset and after START, where the spec gives one. -/
def Obligations.ResetAndStartColumns : Prop :=
  (State.reset.prev = ⟨0#8, 0#8, 0#8, 255#8⟩ ∧
    (∀ i : BitVec 6, State.reset.cacheRead i = if i = 53#6 then ⟨0#8, 0#8, 0#8, 255#8⟩ else ⟨0#8, 0#8, 0#8, 0#8⟩) ∧
    State.reset.pos = 0#64 ∧ State.reset.sp = 0 ∧ State.reset.phase = .idle ∧ State.reset.cause = .noViolation) ∧
  (∀ (w h : BitVec 32) (str : List Byte) (s t : State), startDecode w h str s = .next t →
    t.prev = ⟨0#8, 0#8, 0#8, 255#8⟩ ∧
    (∀ i : BitVec 6, t.cacheRead i = if i = 53#6 then ⟨0#8, 0#8, 0#8, 255#8⟩ else ⟨0#8, 0#8, 0#8, 0#8⟩) ∧
    t.width = w ∧ t.height = h ∧ t.total.toNat = w.toNat * h.toNat ∧ t.pos = 0#64 ∧ t.sp = 0 ∧
    t.phase = .chunk ∧ t.cause = .noViolation ∧ ∀ p : Nat, t.hostCell p = Config.callerCell t.decodes p)

/-- R130: START is accepted in IDLE, DONE and FAILED with both dimensions nonzero, loads what its pseudocode says and
writes nothing else of the block; with a zero dimension it is refused, and so it is in CHUNK and ENDMARK. -/
def Obligations.StartLoads : Prop :=
  ∀ (w h : BitVec 32) (str : List Byte) (s : State),
    ((s.phase = .idle ∨ s.phase = .done ∨ s.phase = .failed) → w ≠ 0#32 → h ≠ 0#32 →
      ∃ t, startDecode w h str s = .next t ∧ t.width = w ∧ t.height = h ∧ t.total.toNat = w.toNat * h.toNat ∧
        t.prev = ⟨0#8, 0#8, 0#8, 255#8⟩ ∧
        (∀ i : BitVec 6, t.cacheRead i = if i = 53#6 then ⟨0#8, 0#8, 0#8, 255#8⟩ else ⟨0#8, 0#8, 0#8, 0#8⟩) ∧
        t.pos = 0#64 ∧ t.sp = 0 ∧ t.cause = .noViolation ∧ t.phase = .chunk ∧ t.fsm = .op ∧
        t.latches = ⟨false, 0#8, 0#8, 0#8, 0#6, ⟨0#8, 0#8, 0#8, 0#8⟩, false, 0#6, 0#4⟩ ∧ t.stream = str ∧ t.pos < t.total ∧ t.host = s.host) ∧
    ((s.phase = .idle ∨ s.phase = .done ∨ s.phase = .failed) → (w = 0#32 ∨ h = 0#32) →
      startDecode w h str s = .refused .startZeroDimension) ∧
    ((s.phase = .chunk ∨ s.phase = .endmark) → startDecode w h str s = .refused .startWhileRunning)

/-- R24: nothing of one decode can influence the next. Two blocks in any state, started alike, stay alike for ever, but
for the model's own `host` list and decode number. -/
def Obligations.StartForgets : Prop :=
  ∀ (w h : BitVec 32) (str : List Byte) (s s' t t' : State) (n : Nat), s.host = [] → s'.host = [] →
    startDecode w h str s = .next t → startDecode w h str s' = .next t' →
    match core.run n t, core.run n t' with
    | .next u, .next u' => SameBlock u u'
    | .fault f, .fault f' => f = f'
    | .refused r, .refused r' => r = r'
    | _, _ => False

/-! ### Encoding -/

/-- R54: the complete map of the 256 control-byte values, with the field values of each range; no control byte is
illegal, and BAD_OPCODE is never raised. -/
def Obligations.ControlByteMap : Prop :=
  (∀ s t : State, s.cause ≠ .badOpcode → step s = .next t → t.cause ≠ .badOpcode) ∧
  ∀ b : Byte,
    (b.toNat ≤ 0x3F → kindOf b = .index ∧ (indexField b).toNat = b.toNat) ∧
    (0x40 ≤ b.toNat ∧ b.toNat ≤ 0x7F → kindOf b = .diff ∧
      b.toNat = 0x40 + (diffRed b).toNat * 16 + (diffGreen b).toNat * 4 + (diffBlue b).toNat) ∧
    (0x80 ≤ b.toNat ∧ b.toNat ≤ 0xBF → kindOf b = .luma ∧ (lumaField b).toNat = b.toNat - 0x80) ∧
    (0xC0 ≤ b.toNat ∧ b.toNat ≤ 0xFD → kindOf b = .run ∧ (runField b).toNat = b.toNat - 0xC0 ∧
      (runField b).toNat ≤ 61 ∧ 1 ≤ runLength (runField b) ∧ runLength (runField b) ≤ 62) ∧
    (b.toNat = 0xFE → kindOf b = .rgb) ∧
    (b.toNat = 0xFF → kindOf b = .rgba)

/-- Words written out from the formats of R51: what they decode to. -/
def Obligations.SampleWords : Prop :=
  decodeChunk [0xFE#8, 0x0A#8, 0x14#8, 0x1E#8] = .ok (.rgb 10#8 20#8 30#8, []) ∧
  decodeChunk [0xFF#8, 0x01#8, 0x02#8, 0x03#8, 0x04#8] = .ok (.rgba 1#8 2#8 3#8 4#8, []) ∧
  decodeChunk [0x35#8] = .ok (.index 53#6, []) ∧
  decodeChunk [0x4E#8] = .ok (.diff 0#2 3#2 2#2, []) ∧
  decodeChunk [0xA5#8, 0x3C#8] = .ok (.luma 37#6 3#4 12#4, []) ∧
  decodeChunk [0xC4#8] = .ok (.run 4#6, []) ∧
  decode .endMarker [0#8, 0#8, 0#8, 0#8, 0#8, 0#8, 0#8, 1#8] = .ok (.endMarker, [])

/-- Decoding the bytes of a well-formed instruction gives it back, with the bytes after it untouched. -/
def Obligations.DecodeEncode : Prop :=
  ∀ (i : Instr) (rest : List Byte), i.wellFormed = true → decode i.readAs (encode i ++ rest) = .ok (i, rest)

/-- Whatever decodes as a chunk is well formed, and its encoding is the very bytes read: the format is canonical, one
sequence of bytes for each instruction (R51, R56). -/
def Obligations.EncodeDecode : Prop :=
  ∀ (bytes rest : List Byte) (i : Instr), decodeChunk bytes = .ok (i, rest) →
    i.wellFormed = true ∧ i.readAs = .chunk ∧ encode i ++ rest = bytes

/-- A chunk is rejected in exactly one case, a stream that ends before the length its control byte gives (R52, R54,
R57, R71). -/
def Obligations.RejectedOnlyIfShort : Prop :=
  ∀ bytes : List Byte,
    (∃ e, decodeChunk bytes = .error e) ↔ ∀ b0 rest, bytes = b0 :: rest → bytes.length < (kindOf b0).length

/-- R60: the assembler's notation, biases removed, assembles to the instruction's bytes; every operand out of range is
refused; `.byte` gives its bytes, and `END` is the `.byte` line of the marker. -/
def Obligations.AssembleDisassemble : Prop :=
  (∀ i : Instr, i.wellFormed = true → assemble (disassemble i) = some (encode i)) ∧
  (∀ n : Nat, (n = 0 ∨ 62 < n) → assemble (.run n) = none) ∧
  (∀ n : Nat, 63 < n → assemble (.index n) = none) ∧
  (∀ dr dg db : Int, (dr < -2 ∨ 1 < dr ∨ dg < -2 ∨ 1 < dg ∨ db < -2 ∨ 1 < db) → assemble (.diff dr dg db) = none) ∧
  (∀ dg drg dbg : Int, (dg < -32 ∨ 31 < dg ∨ drg < -8 ∨ 7 < drg ∨ dbg < -8 ∨ 7 < dbg) →
    assemble (.luma dg drg dbg) = none) ∧
  (∀ r g b : Nat, (255 < r ∨ 255 < g ∨ 255 < b) → assemble (.rgb r g b) = none) ∧
  (∀ r g b a : Nat, (255 < r ∨ 255 < g ∨ 255 < b ∨ 255 < a) → assemble (.rgba r g b a) = none) ∧
  (∀ vs : List Nat, (∀ v ∈ vs, v ≤ 255) → assemble (.bytes vs) = some (vs.map (BitVec.ofNat 8))) ∧
  (∀ vs : List Nat, (∃ v ∈ vs, 255 < v) → assemble (.bytes vs) = none) ∧
  assemble .endMarker = assemble (.bytes [0, 0, 0, 0, 0, 0, 0, 1])

/-! ### The hash and the channel arithmetic -/

/-- R75: the hash, its largest sum, that any accumulator keeping the low 6 bits gives the same, and the worked values. -/
def Obligations.HashRule : Prop :=
  (∀ p : Pixel,
    (pixelHash p).toNat = (p.r.toNat * 3 + p.g.toNat * 5 + p.b.toNat * 7 + p.a.toNat * 11) % 64 ∧
    p.r.toNat * 3 + p.g.toNat * 5 + p.b.toNat * 7 + p.a.toNat * 11 ≤ 6630 ∧
    (pixelHash p).toNat =
      (p.r.toNat % 64 * 3 + p.g.toNat % 64 * 5 + p.b.toNat % 64 * 7 + p.a.toNat % 64 * 11) % 64 ∧
    pixelHash p = (p.r * 3#8 + p.g * 5#8 + p.b * 7#8 + p.a * 11#8).setWidth 6 ∧
    pixelHash p = p.r.setWidth 6 * 3#6 + p.g.setWidth 6 * 5#6 + p.b.setWidth 6 * 7#6 + p.a.setWidth 6 * 11#6 ∧
    ∀ n : Nat, 6 ≤ n →
      (p.r.toNat * 3 + p.g.toNat * 5 + p.b.toNat * 7 + p.a.toNat * 11) % 2 ^ n % 64 = (pixelHash p).toNat) ∧
  pixelHash ⟨0#8, 0#8, 0#8, 255#8⟩ = 53#6 ∧ pixelHash ⟨0#8, 0#8, 0#8, 0#8⟩ = 0#6 ∧ pixelHash ⟨10#8, 20#8, 30#8, 255#8⟩ = 9#6 ∧
  pixelHash ⟨255#8, 255#8, 255#8, 255#8⟩ = 38#6 ∧ pixelHash ⟨64#8, 0#8, 0#8, 0#8⟩ = 0#6

/-- R77: channel arithmetic wraps modulo 256 in both directions, additions compose in any order and width, and the
unsigned-only forms of DIFF and LUMA are the same. -/
def Obligations.ChannelArithmetic : Prop :=
  (∀ (c : Byte) (d : Int), ((addDelta c d).toNat : Int) = (c.toNat + d) % 256) ∧
  (∀ (c : Byte) (d e : Int), addDelta (addDelta c d) e = addDelta c (d + e)) ∧
  (∀ (c : Byte) (f : BitVec 2), addDelta c (diffDelta f) = c + f.setWidth 8 + 254#8) ∧
  (∀ (c : Byte) (f : BitVec 6), addDelta c (lumaGreen f) = c + f.setWidth 8 + 224#8) ∧
  (∀ (c : Byte) (f : BitVec 6) (g : BitVec 4),
    addDelta c (lumaGreen f + lumaRelative g) = c + f.setWidth 8 + g.setWidth 8 + 216#8) ∧
  addDelta 255#8 1 = 0#8 ∧ addDelta 0#8 (-2) = 254#8 ∧ addDelta 1#8 (-2) = 255#8

/-- R112: the control bytes and second bytes at the corners of the delta ranges. -/
def Obligations.DeltaCorners : Prop :=
  (∀ x ∈ ([(0x40#8, -2, -2, -2), (0x55#8, -1, -1, -1), (0x6A#8, 0, 0, 0), (0x7F#8, 1, 1, 1), (0x70#8, 1, -2, -2),
      (0x4C#8, -2, 1, -2), (0x43#8, -2, -2, 1)] : List (Byte × Int × Int × Int)),
    kindOf x.1 = .diff ∧
      (diffDelta (diffRed x.1), diffDelta (diffGreen x.1), diffDelta (diffBlue x.1)) = x.2) ∧
  (∀ x ∈ ([(0x80#8, -32), (0xA0#8, 0), (0xBF#8, 31)] : List (Byte × Int)),
    kindOf x.1 = .luma ∧ lumaGreen (lumaField x.1) = x.2) ∧
  (∀ x ∈ ([(0x00#8, -8, -8), (0x88#8, 0, 0), (0xFF#8, 7, 7), (0xF0#8, 7, -8), (0x0F#8, -8, 7)] :
      List (Byte × Int × Int)),
    (lumaRelative (lumaHigh x.1), lumaRelative (lumaLow x.1)) = x.2)

/-! ### The chunks: result, frame, fetch and short read -/

/-- R90: RGB. -/
def Obligations.RgbRule : Prop :=
  ∀ (r g b : Byte) (s : State), s.fsm = .op → s.pos < s.total →
    (∃ t, exec (.rgb r g b) s = .next t ∧ EmitsOne 4 ⟨r, g, b, s.prev.a⟩ true s t) ∧
    (∀ rest, s.host = [] → s.bytesLeft = 0xFE#8 :: r :: g :: b :: rest → step s = exec (.rgb r g b) s) ∧
    (∀ payload : List Byte, s.host = [] → s.bytesLeft = 0xFE#8 :: payload → payload.length < 3 →
      step s = .next { s with sp := s.stream.length, cause := .shortRead, fsm := .fail })

/-- R91: RGBA. -/
def Obligations.RgbaRule : Prop :=
  ∀ (r g b a : Byte) (s : State), s.fsm = .op → s.pos < s.total →
    (∃ t, exec (.rgba r g b a) s = .next t ∧ EmitsOne 5 ⟨r, g, b, a⟩ true s t) ∧
    (∀ rest, s.host = [] → s.bytesLeft = 0xFF#8 :: r :: g :: b :: a :: rest → step s = exec (.rgba r g b a) s) ∧
    (∀ payload : List Byte, s.host = [] → s.bytesLeft = 0xFF#8 :: payload → payload.length < 4 →
      step s = .next { s with sp := s.stream.length, cause := .shortRead, fsm := .fail })

/-- R100, R101, R103: INDEX, at every index, with no cache write; a slot never written gives its initial value. -/
def Obligations.IndexRule : Prop :=
  ∀ (idx : BitVec 6) (s : State), s.fsm = .op → s.pos < s.total →
    (∃ t, exec (.index idx) s = .next t ∧ EmitsOne 1 (s.cacheRead idx) false s t ∧ t.cache = s.cache) ∧
    (∀ rest, s.host = [] → s.bytesLeft = (0b00#2 ++ idx : Byte) :: rest → step s = exec (.index idx) s) ∧
    (s.cache = cacheInitial →
      ∃ t, exec (.index idx) s = .next t ∧ t.prev = if idx = 53#6 then ⟨0#8, 0#8, 0#8, 255#8⟩ else ⟨0#8, 0#8, 0#8, 0#8⟩)

/-- R110: DIFF. -/
def Obligations.DiffRule : Prop :=
  ∀ (fr fg fb : BitVec 2) (s : State), s.fsm = .op → s.pos < s.total →
    (∃ t px, exec (.diff fr fg fb) s = .next t ∧ EmitsOne 1 px true s t ∧
      (px.r.toNat : Int) = (s.prev.r.toNat + ((fr.toNat : Int) - 2)) % 256 ∧
      (px.g.toNat : Int) = (s.prev.g.toNat + ((fg.toNat : Int) - 2)) % 256 ∧
      (px.b.toNat : Int) = (s.prev.b.toNat + ((fb.toNat : Int) - 2)) % 256 ∧ px.a = s.prev.a) ∧
    (∀ rest, s.host = [] → s.bytesLeft = (0b01#2 ++ fr ++ fg ++ fb : Byte) :: rest →
      step s = exec (.diff fr fg fb) s)

/-- R111: LUMA. -/
def Obligations.LumaRule : Prop :=
  ∀ (fdg : BitVec 6) (fdrg fdbg : BitVec 4) (s : State), s.fsm = .op → s.pos < s.total →
    (∃ t px, exec (.luma fdg fdrg fdbg) s = .next t ∧ EmitsOne 2 px true s t ∧
      (px.r.toNat : Int) = (s.prev.r.toNat + ((fdg.toNat : Int) - 32) + ((fdrg.toNat : Int) - 8)) % 256 ∧
      (px.g.toNat : Int) = (s.prev.g.toNat + ((fdg.toNat : Int) - 32)) % 256 ∧
      (px.b.toNat : Int) = (s.prev.b.toNat + ((fdg.toNat : Int) - 32) + ((fdbg.toNat : Int) - 8)) % 256 ∧
      px.a = s.prev.a) ∧
    (∀ rest, s.host = [] → s.bytesLeft = (0b10#2 ++ fdg : Byte) :: (fdrg ++ fdbg : Byte) :: rest →
      step s = exec (.luma fdg fdrg fdbg) s) ∧
    (s.host = [] → s.bytesLeft = [(0b10#2 ++ fdg : Byte)] →
      step s = .next { s with sp := s.stream.length, cause := .shortRead, fsm := .fail })

/-- R122, R124: a RUN that fits writes `prev` to `fn + 1` consecutive cells and nothing else. -/
def Obligations.RunFits : Prop :=
  ∀ (fn : BitVec 6) (s : State), s.fsm = .op → fn.toNat ≤ 61 → s.pos.toNat + (fn.toNat + 1) ≤ s.total.toNat →
    (∃ t, exec (.run fn) s = .next t ∧ EmitsRun (fn.toNat + 1) s t) ∧
    (∀ rest, s.host = [] → s.bytesLeft = (0b11#2 ++ fn : Byte) :: rest → step s = exec (.run fn) s)

/-- R123: a RUN longer than the cells left raises RUN_OVERFLOW after its control byte, before any pixel is written; one
that ends exactly at the last cell is legal and moves the block to ENDMARK. -/
def Obligations.RunOverflow : Prop :=
  ∀ (fn : BitVec 6) (s : State), s.fsm = .op → s.pos < s.total → fn.toNat ≤ 61 →
    (s.total.toNat < s.pos.toNat + (fn.toNat + 1) →
      exec (.run fn) s = .next { s with sp := s.sp + 1, cause := .runOverflow, fsm := .fail }) ∧
    (s.pos.toNat + (fn.toNat + 1) = s.total.toNat → ∃ t, exec (.run fn) s = .next t ∧ t.phase = .endmark)

/-- R121: no control byte reaches the reserved-length guard, and RUN called with a forged field raises RESERVED_RUN. -/
def Obligations.ReservedRun : Prop :=
  (∀ b : Byte, kindOf b = .run → (runField b).toNat ≤ 61) ∧
  (∀ s t : State, s.cause ≠ .reservedRun → step s = .next t → t.cause ≠ .reservedRun) ∧
  (∀ (fn : BitVec 6) (s : State), s.fsm = .op → s.pos < s.total → (fn = 62#6 ∨ fn = 63#6) →
    exec (.run fn) s = .next { s with sp := s.sp + 1, cause := .reservedRun, fsm := .fail })

/-- The model's choice (log 10): away from a chunk boundary a chunk's meaning is refused, with no cell left it faults;
R70 gives only the precondition. -/
def Obligations.ChunkPrecondition : Prop :=
  ∀ (i : Instr) (s : State), i.readAs = .chunk →
    (s.fsm ≠ .op → exec i s = .refused .notAtChunkBoundary) ∧
    (s.fsm = .op → ¬ s.pos < s.total → exec i s = .fault .noCellLeft) ∧
    (s.fsm = .op → s.pos < s.total → ∃ t, exec i s = .next t)

/-- R14 item 2: `cache[hash(prev)] = prev` after every RGB, RGBA, DIFF and LUMA, after an INDEX of an entry that lies
at its own hash, and kept by RUN. -/
def Obligations.CacheReflectsPrev : Prop :=
  ∀ (i : Instr) (s t : State), exec i s = .next t →
    match i with
    | .rgb _ _ _ => t.cacheRead (pixelHash t.prev) = t.prev
    | .rgba _ _ _ _ => t.cacheRead (pixelHash t.prev) = t.prev
    | .diff _ _ _ => t.cacheRead (pixelHash t.prev) = t.prev
    | .luma _ _ _ => t.cacheRead (pixelHash t.prev) = t.prev
    | .index idx => pixelHash (s.cacheRead idx) = idx → t.cacheRead (pixelHash t.prev) = t.prev
    | .run _ => s.cacheRead (pixelHash s.prev) = s.prev → t.cacheRead (pixelHash t.prev) = t.prev
    | .endMarker => s.cacheRead (pixelHash s.prev) = s.prev → t.cacheRead (pixelHash t.prev) = t.prev

/-! ### The end marker -/

/-- R131: END on a right marker, on a wrong byte at any place, and on a stream that ends inside the marker. -/
def Obligations.EndRule : Prop :=
  ∀ s : State, s.fsm = .endMark → s.latches.endcnt = 0#4 →
    (∀ rest : List Byte, s.bytesLeft = [0#8, 0#8, 0#8, 0#8, 0#8, 0#8, 0#8, 1#8] ++ rest →
      ∃ t, exec .endMarker s = .next t ∧ t.phase = .done ∧ t.sp = s.sp + 8 ∧ t.cause = s.cause ∧ EndFrame s t) ∧
    (∀ (k : Nat) (b : Byte) (rest : List Byte), k < 8 → b ≠ (if k = 7 then 1#8 else 0#8) →
      s.bytesLeft = List.replicate k 0#8 ++ b :: rest →
      ∃ t, exec .endMarker s = .next t ∧ t.phase = .failed ∧ t.cause = .badEndMarker ∧ t.sp = s.sp + k + 1 ∧
        EndFrame s t) ∧
    (∀ k : Nat, k < 8 → s.bytesLeft = List.replicate k 0#8 →
      ∃ t, exec .endMarker s = .next t ∧ t.phase = .failed ∧ t.cause = .shortRead ∧ t.sp = s.sp + k ∧ EndFrame s t) ∧
    (s.host = [] → step s = exec .endMarker s)

/-- The model's choice (log 10): END outside phase ENDMARK is refused. -/
def Obligations.EndPrecondition : Prop :=
  ∀ s : State,
    (s.phase ≠ .endmark → exec .endMarker s = .refused .notInEndmark) ∧
    (s.phase = .endmark → ∃ t, exec .endMarker s = .next t ∧ EndFrame s t)

/-! ### The step -/

/-- A step runs the decoded instruction: at a chunk boundary, with no move of the host pending, `step` is `exec` of the
chunk the bytes decode to; in ENDMARK it is `exec` of END; inside a chunk that a handshake cycle has left unfinished it is
the chunk's next event (log 1). Before that it takes the host's next move. -/
def Obligations.StepRunsDecoded : Prop :=
  (∀ (s : State) (i : Instr) (rest : List Byte), s.host = [] → s.fsm = .op →
    decode .chunk s.bytesLeft = .ok (i, rest) → step s = exec i s) ∧
  (∀ s : State, s.host = [] → s.fsm = .endMark → step s = exec .endMarker s) ∧
  (∀ s : State, s.host = [] →
    (s.fsm = .litR ∨ s.fsm = .litG ∨ s.fsm = .litB ∨ s.fsm = .litA ∨ s.fsm = .luma2 ∨ s.fsm = .emit ∨ s.fsm = .run) →
    step s = s.event) ∧
  (∀ (s : State) (m : HostMove) (rest : List HostMove), s.host = m :: rest →
    step s = State.hostMove m { s with host := rest })

/-- R71: a stream that ends at any read of a chunk raises SHORT_READ and emits nothing; `sp` is then the stream's
length. -/
def Obligations.ShortRead : Prop :=
  ∀ s : State, s.host = [] → s.fsm = .op → s.sp ≤ s.stream.length →
    (∀ b0 rest, s.bytesLeft = b0 :: rest → s.bytesLeft.length < (kindOf b0).length) →
    step s = .next { s with sp := s.stream.length, cause := .shortRead, fsm := .fail }

/-- R71, R133: a step reads its own bytes and no more. Two streams that agree up to the end of the chunk, or of the
marker, give the same step, whatever comes after. -/
def Obligations.BytesAfterUnread : Prop :=
  ∀ (s t : State) (tail : List Byte), s.host = [] → s.sp ≤ s.stream.length → step s = .next t →
    t.cause ≠ .shortRead →
    step { s with stream := s.stream.take t.sp ++ tail } = .next { t with stream := s.stream.take t.sp ++ tail }

/-- R172: a violation sets `cause` and `phase` and nothing else, and in FAILED the block takes no step. -/
def Obligations.ViolationEntry : Prop :=
  (∀ (c : Cause) (s : State), s.raise c = { s with cause := c, fsm := .fail } ∧ (s.raise c).phase = .failed) ∧
  (∀ s : State, s.phase = .failed → s.host = [] → step s = .next s)

/-- R132, R134: DONE is entered only from ENDMARK, by END on a right marker; in IDLE, DONE and FAILED the block takes no
step. -/
def Obligations.DoneOnlyByEnd : Prop :=
  (∀ s t : State, step s = .next t → t.phase = .done → s.phase = .done ∨ s.phase = .endmark) ∧
  (∀ s t : State, s.fsm = .endMark → s.latches.endcnt = 0#4 → s.host = [] → step s = .next t → t.phase = .done →
    ∃ rest, s.bytesLeft = [0#8, 0#8, 0#8, 0#8, 0#8, 0#8, 0#8, 1#8] ++ rest ∧ t.sp = s.sp + 8) ∧
  (∀ s : State, (s.phase = .idle ∨ s.phase = .done ∨ s.phase = .failed) → s.host = [] → step s = .next s)

/-- R82: the control flow. A step of the block alone keeps the phase or takes it along IDLE, CHUNK, ENDMARK, DONE or to
FAILED from CHUNK and ENDMARK, and `sp` never moves back. -/
def Obligations.PhaseOrder : Prop :=
  ∀ s t : State, s.host = [] → step s = .next t →
    (t.phase = s.phase ∨ (s.phase = .chunk ∧ t.phase = .endmark) ∨ (s.phase = .endmark ∧ t.phase = .done) ∨
      ((s.phase = .chunk ∨ s.phase = .endmark) ∧ t.phase = .failed)) ∧ s.sp ≤ t.sp

/-- R81: a chunk step that completes consumes 1 to 5 bytes and emits 1 to 62 pixels. -/
def Obligations.ChunkProgress : Prop :=
  ∀ s t : State, s.host = [] → s.fsm = .op → step s = .next t → t.phase ≠ .failed →
    s.sp + 1 ≤ t.sp ∧ t.sp ≤ s.sp + 5 ∧ s.pos.toNat + 1 ≤ t.pos.toNat ∧ t.pos.toNat ≤ s.pos.toNat + 62

/-- R81: from a chunk boundary a decode ends in DONE or FAILED after at most one step for each cell left and one for
the end marker. -/
def Obligations.DecodeEnds : Prop :=
  ∀ s : State, s.host = [] → DecodeInv s → s.fsm = .op →
    ∃ t, core.run (s.total.toNat - s.pos.toNat + 1) s = .next t ∧ t.ended

/-! ### Invariants every step keeps -/

/-- The invariants hold right after reset. -/
def Obligations.ResetInvariants : Prop :=
  BufferInv State.reset ∧ CacheInv State.reset ∧ CauseInv State.reset ∧ CursorInv State.reset ∧
    DecodeInv State.reset ∧ LastPixelInv State.reset

/-- Every step keeps the buffer's canonical form. -/
def Obligations.StepKeepsBufferForm : Prop :=
  ∀ s t : State, BufferInv s → step s = .next t → BufferInv t

/-- R14 item 1: every step keeps every cache entry zero or at its own hash. -/
def Obligations.StepKeepsCacheInv : Prop :=
  ∀ s t : State, CacheInv s → step s = .next t → CacheInv t

/-- R20: every step keeps `cause` NONE unless `phase` is FAILED. -/
def Obligations.StepKeepsCauseInv : Prop :=
  ∀ s t : State, CauseInv s → step s = .next t → CauseInv t

/-- Every step keeps the stream cursor within the stream. -/
def Obligations.StepKeepsCursorInv : Prop :=
  ∀ s t : State, CursorInv s → step s = .next t → CursorInv t

/-- R17, R38: every step keeps `total`, `pos`, the counters and the set of cells written in agreement. -/
def Obligations.StepKeepsDecodeInv : Prop :=
  ∀ s t : State, DecodeInv s → step s = .next t → DecodeInv t

/-- R74: every step keeps `prev` the pixel of the last cell written. -/
def Obligations.StepKeepsLastPixel : Prop :=
  ∀ s t : State, LastPixelInv s → step s = .next t → LastPixelInv t

/-- R38, R41, R196: in DONE every cell of the image holds the converted pixel the block wrote there, and no other cell was
written. -/
def Obligations.DoneImageComplete : Prop :=
  ∀ s : State, DecodeInv s → s.phase = .done →
    ∀ p : Nat, (p < s.width.toNat * s.height.toNat →
        ∃ px, Memory.read s.buffer p = some px ∧ s.hostCell p = Config.convert px) ∧
      (s.width.toNat * s.height.toNat ≤ p → Memory.read s.buffer p = none)

/-! ### The byte-level machine -/

/-- R162: at a chunk boundary the events of a chunk, its bytes and then its pixels, lead to the `prev`, `cache`, `pos`,
`sp`, `phase` and `cause` the chunk step gives, for every chunk and for a run that overflows. The statement is equality of
the whole state, the hidden latches included: R162 does not compare those at a chunk boundary, and that a chunk step leaves
in them what its events leave is the model's own deduction (log 12). -/
def Obligations.EventsAgreeWithChunk : Prop :=
  ∀ (s : State) (i : Instr) (rest : List Byte), s.fsm = .op → s.pos < s.total → i.wellFormed = true →
    i.readAs = .chunk → s.bytesLeft = encode i ++ rest → s.events (eventCount i) = exec i s

/-- R162: the eight byte events of the end marker lead to the `phase`, `cause` and `sp` END gives, defects and short reads
included. The statement is equality of the whole state, the latch `endcnt` included: R131's END has no such latch and R162
does not compare it, and that END leaves in it what its events leave is the model's own deduction (log 12). -/
def Obligations.EventsAgreeWithEnd : Prop :=
  ∀ s : State, s.fsm = .endMark → s.events 8 = exec .endMarker s

/-- R162: a stream that ends inside a chunk fails alike at both levels; only the hidden latches differ. -/
def Obligations.EventsAgreeOnShortRead : Prop :=
  ∀ (s : State), s.fsm = .op → s.host = [] → s.sp ≤ s.stream.length →
    (∀ b0 rest, s.bytesLeft = b0 :: rest → s.bytesLeft.length < (kindOf b0).length) →
    ∃ t u, s.events (s.bytesLeft.length + 1) = .next t ∧ step s = .next u ∧ { t with latches := u.latches } = u

/-- R163: the stalls, by state. A byte-consuming state with `in_valid` and `in_eos` 0 waits whatever `out_ready` is;
S_EMIT and S_RUN with `out_ready` 0 wait whether or not the stream's next byte is offered; in S_IDLE, S_DONE and S_FAIL no
input but `rst` and `start` does anything (R132, R172, R194). Two points are the model's own deductions: `in_eos` while a
write is awaited ends the stream at `sp`, and changes nothing else (log 13); a byte other than the stream's next is not
stated here, because it has no move (log 11). -/
def Obligations.StallChangesNothing : Prop :=
  ∀ (s : State) (i : Inputs), i.rst = false → i.start = false →
    (s.fsm.inReady = true → i.inValid = false → i.inEos = false → s.cycle i = .next s) ∧
    (s.fsm.outValid = true → i.outReady = false → i.inEos = false →
      (i.inValid = true → s.nextByte? = some i.inData) → s.cycle i = .next s) ∧
    (s.fsm.outValid = true → i.outReady = false → i.inEos = true → i.inValid = false →
      s.cycle i = .next { s with stream := s.stream.take s.sp }) ∧
    ((s.fsm = .idle ∨ s.fsm = .done ∨ s.fsm = .fail) → (i.inValid && i.inEos) = false → s.cycle i = .next s)

/-- R160: in S_IDLE, S_DONE and S_FAIL no event is possible, `start` performs START, and `rst` performs the reset in any
state. A cycle with both `rst` and `start` is not stated (log 8). -/
def Obligations.RestingStates : Prop :=
  (∀ s : State, (s.fsm = .idle ∨ s.fsm = .done ∨ s.fsm = .fail) →
    s.fsm.inReady = false ∧ s.fsm.outValid = false ∧ s.event = .next s ∧
    ∀ i : Inputs, i.rst = false → i.start = true → (i.inValid && i.inEos) = false →
      s.cycle i = startDecode i.cfgWidth i.cfgHeight i.startStream s) ∧
  (∀ (s : State) (i : Inputs), i.rst = true → i.start = false →
    s.cycle i = .next s.hardReset ∧ s.hardReset.fsm = .idle)

/-- R151: the block never asserts `in_ready` and `out_valid` together; with a byte offered that is the stream's next, the
byte event happens, with `in_eos` the EOS event, and with a write accepted the pixel event, whatever `in_eos` is. `in_eos`
also ends the stream at `sp` (log 13). A byte that is not the stream's next has no move (R194, R195): that this is so too
while a write is awaited, where R151 alone would give the pixel event, is the model's own deduction (log 11). -/
def Obligations.HandshakeEvents : Prop :=
  (∀ f : Fsm, (f.inReady && f.outValid) = false) ∧
  (∀ (s : State) (i : Inputs), i.rst = false → i.start = false →
    (s.fsm.inReady = true → i.inValid = true → i.inEos = false → s.nextByte? = some i.inData →
      s.cycle i = .next (s.byteEvent i.inData) ∧ s.cycle i = s.event) ∧
    (s.fsm.inReady = true → i.inValid = false → i.inEos = true →
      s.cycle i = .next { s with stream := s.stream.take s.sp, cause := .shortRead, fsm := .fail }) ∧
    (s.fsm.outValid = true → i.outReady = true → i.inEos = false → (i.inValid = true → s.nextByte? = some i.inData) →
      s.cycle i = s.pixelEvent ∧ s.cycle i = s.event) ∧
    (s.fsm.outValid = true → i.outReady = true → i.inEos = true → i.inValid = false →
      s.cycle i = ({ s with stream := s.stream.take s.sp } : State).pixelEvent) ∧
    ((s.fsm.inReady = true ∨ s.fsm.outValid = true) → i.inValid = true → i.inEos = false →
      s.nextByte? ≠ some i.inData → s.cycle i = .refused .streamAltered))

/-- R181: `in_eos` before the end of the stream ends the decode at its next read: FAILED with cause SHORT_READ, as a
stream truncated there would. -/
def Obligations.CancelByEndOfStream : Prop :=
  (∀ (s : State) (i : Inputs), s.fsm.inReady = true → i.rst = false → i.start = false → i.inValid = false →
    i.inEos = true → ∃ t, s.cycle i = .next t ∧ t.phase = .failed ∧ t.cause = .shortRead ∧ t.sp = s.sp) ∧
  (∀ (s : State), s.fsm = .op → s.host = [.endStream 0] → s.sp ≤ s.stream.length →
    ∃ t, core.run 2 s = .next t ∧ t.phase = .failed ∧ t.cause = .shortRead ∧ t.sp = s.sp)

/-- R153: the code, the handshake outputs and the phase of each state of the byte-level machine; codes 12 to 15 are
never taken; the outputs carry `cur` in S_EMIT and `prev` in S_RUN, with `out_pos = pos` in both. The ports `phase` and
`cause` (R150) carry the codes of R19 and R171. That the pixel outputs have no value (`none`) while `out_valid` is 0 is the
model's choice (log 14): the spec gives them none. -/
def Obligations.FsmTable : Prop :=
  (∀ f : Fsm,
    f.code.toNat ≤ 11 ∧
    match f with
    | .idle => (f.code, f.inReady, f.outValid, f.phase) = (0#4, false, false, .idle)
    | .op => (f.code, f.inReady, f.outValid, f.phase) = (1#4, true, false, .chunk)
    | .litR => (f.code, f.inReady, f.outValid, f.phase) = (2#4, true, false, .chunk)
    | .litG => (f.code, f.inReady, f.outValid, f.phase) = (3#4, true, false, .chunk)
    | .litB => (f.code, f.inReady, f.outValid, f.phase) = (4#4, true, false, .chunk)
    | .litA => (f.code, f.inReady, f.outValid, f.phase) = (5#4, true, false, .chunk)
    | .luma2 => (f.code, f.inReady, f.outValid, f.phase) = (6#4, true, false, .chunk)
    | .emit => (f.code, f.inReady, f.outValid, f.phase) = (7#4, false, true, .chunk)
    | .run => (f.code, f.inReady, f.outValid, f.phase) = (8#4, false, true, .chunk)
    | .endMark => (f.code, f.inReady, f.outValid, f.phase) = (9#4, true, false, .endmark)
    | .done => (f.code, f.inReady, f.outValid, f.phase) = (10#4, false, false, .done)
    | .fail => (f.code, f.inReady, f.outValid, f.phase) = (11#4, false, false, .failed)) ∧
  (∀ s : State,
    s.outputs.inReady = s.fsm.inReady ∧ s.outputs.phase = s.fsm.phase.code ∧ s.outputs.cause = s.cause.code ∧
    (s.fsm.outValid = false → s.outputs.pixel = none) ∧
    (s.fsm = .emit → ∃ o, s.outputs.pixel = some o ∧ o.px = s.latches.cur ∧ o.pos = s.pos) ∧
    (s.fsm = .run → ∃ o, s.outputs.pixel = some o ∧ o.px = s.prev ∧ o.pos = s.pos)) ∧
  (Phase.idle.code = 0#3 ∧ Phase.chunk.code = 1#3 ∧ Phase.endmark.code = 2#3 ∧ Phase.done.code = 3#3 ∧
    Phase.failed.code = 4#3) ∧
  (Cause.noViolation.code = 0#3 ∧ Cause.shortRead.code = 1#3 ∧ Cause.reservedRun.code = 2#3 ∧
    Cause.badEndMarker.code = 3#3 ∧ Cause.badOpcode.code = 4#3 ∧ Cause.runOverflow.code = 5#3)

/-- R39: every write carries `(row, col)` with `row × width + col = pos`, inside the image, and the pixel of its state. -/
def Obligations.OfferedPosition : Prop :=
  ∀ s : State, SizeInv s → s.pos < s.total → s.fsm.outValid = true →
    ∃ o, s.outputs.pixel = some o ∧ o.pos = s.pos ∧ o.row.toNat * s.width.toNat + o.col.toNat = s.pos.toNat ∧
      o.row.toNat < s.height.toNat ∧ o.col.toNat < s.width.toNat ∧
      o.px = if s.fsm = .emit then s.latches.cur else s.prev

/-- U4, R24: after a decode has ended nothing the block does or shows depends on `prev`, `cache`, `pos` and the latches
it is left with: not its outputs, not a cell of the buffer, not hardware reset, not START; and it takes no step. -/
def Obligations.EndedRegistersUnseen : Prop :=
  ∀ (s : State) (p : Pixel) (c : Vector Pixel 64) (pos : BitVec 64) (l : Latches), s.ended →
    let s' : State := { s with prev := p, cache := c, pos := pos, latches := l }
    s'.outputs = s.outputs ∧ (∀ q : Nat, s'.hostCell q = s.hostCell q) ∧ s'.hardReset = s.hardReset ∧
    (∀ (w h : BitVec 32) (str : List Byte), startDecode w h str s' = startDecode w h str s) ∧
    (s.host = [] → step s' = .next s' ∧ step s = .next s)

/-- U1, R47, R173: a cell in FAILED is any value. That it stays so after a hardware reset, that a reset which cuts a decode
off leaves the cells without a meaning (R190), and that after DONE a reset leaves the image as it was, is the model's choice
(log 15); only a START makes cells mean something again. -/
def Obligations.FailedCellsUnspecified : Prop :=
  (∀ (s : State) (p : Nat), s.phase = .failed → s.hostCell p = Config.failedCell s.decodes p) ∧
  (∀ (s : State) (p : Nat), (s.phase = .chunk ∨ s.phase = .endmark ∨ s.phase = .failed) →
    s.hardReset.hostCell p = Config.failedCell s.decodes p) ∧
  (∀ (s : State) (p : Nat), s.phase = .done → s.hardReset.hostCell p = s.hostCell p) ∧
  (∀ s t : State, s.cellsVoid = true → step s = .next t → t.decodes = s.decodes → t.cellsVoid = true)

/-! ### The Header Parser -/

/-- R141: the 14 bytes of a legal Header parse to it, with the stream positioned after them. -/
def Obligations.HeaderParses : Prop :=
  ∀ (h : Header) (rest : List Byte), h.width ≠ 0#32 → h.height ≠ 0#32 → (h.channels = 3#8 ∨ h.channels = 4#8) →
    (h.colorspace = 0#8 ∨ h.colorspace = 1#8) → parseHeader (headerBytes h ++ rest) = .ok (h, rest)

/-- R142: whatever parses is a legal Header, and its bytes are the first 14 of the file. -/
def Obligations.HeaderAccepted : Prop :=
  ∀ (file rest : List Byte) (h : Header), parseHeader file = .ok (h, rest) →
    h.width ≠ 0#32 ∧ h.height ≠ 0#32 ∧ (h.channels = 3#8 ∨ h.channels = 4#8) ∧
    (h.colorspace = 0#8 ∨ h.colorspace = 1#8) ∧ file = headerBytes h ++ rest

/-- R143, R147: a file shorter than 14 bytes fails, and so does one whose first four bytes are not "qoif"; a file that
fails never starts the block, and one that parses starts it with its dimensions on the bytes after the header. -/
def Obligations.FileStartsBlock : Prop :=
  (∀ file : List Byte, file.length < 14 → ∃ c, parseHeader file = .error c) ∧
  (∀ (b0 b1 b2 b3 : Byte) (rest : List Byte), [b0, b1, b2, b3] ≠ [0x71#8, 0x6F#8, 0x69#8, 0x66#8] →
    parseHeader (b0 :: b1 :: b2 :: b3 :: rest) = .error .badMagic) ∧
  (∀ (s : State) (file : List Byte), s.host = [] →
    match parseHeader file, s.submitFile file with
    | .ok (h, stream), .ok t => step t = startDecode h.width h.height stream s
    | .error c, .error d => c = d
    | _, _ => False)
end

