-- ==== Sys2Proof/Laws/Memory.lean ====
section
/-! SUPPORT. What the operations of the pixel buffer do: reads after writes, and the canonical form. -/

namespace Sys2Proof.Machine

theorem Memory.read_write_same (p : Nat) (px : Pixel) (m : Memory) :
    Memory.read (Memory.write p px m) p = some px := by
  induction m with
  | nil => simp [Memory.write, Memory.read]
  | cons c rest ih =>
    obtain ⟨q, qx⟩ := c
    simp only [Memory.write]
    split
    · next h => simp [Memory.read, ih, Nat.ne_of_lt h]
    · split <;> simp [Memory.read]

theorem Memory.read_write_other {p q : Nat} (h : q ≠ p) (px : Pixel) (m : Memory) :
    Memory.read (Memory.write p px m) q = Memory.read m q := by
  induction m with
  | nil => simp [Memory.write, Memory.read, Ne.symm h]
  | cons c rest ih =>
    obtain ⟨k, kx⟩ := c
    simp only [Memory.write]
    split
    · simp only [Memory.read, ih]
    · split
      · next e => subst e; simp [Memory.read, Ne.symm h]
      · simp [Memory.read, Ne.symm h]

/-- A write, then a read of any cell. -/
theorem Memory.read_write (p q : Nat) (px : Pixel) (m : Memory) :
    Memory.read (Memory.write p px m) q = if q = p then some px else Memory.read m q := by
  split
  · next h => subst h; exact Memory.read_write_same q px m
  · next h => exact Memory.read_write_other h px m

/-- `n` writes from cell `p`, then a read of any cell (44_run_chunk.md R122). -/
theorem Memory.read_fill (n p q : Nat) (px : Pixel) (m : Memory) :
    Memory.read (Memory.fill n p px m) q = if p ≤ q ∧ q < p + n then some px else Memory.read m q := by
  induction n generalizing p m with
  | zero => simp [Memory.fill]
  | succ k ih =>
    simp only [Memory.fill, ih, Memory.read_write]
    by_cases h : p + 1 ≤ q ∧ q < p + 1 + k
    · rw [if_pos h, if_pos (by omega)]
    · rw [if_neg h]
      by_cases e : q = p
      · rw [if_pos e, if_pos (by omega)]
      · rw [if_neg e, if_neg (by omega)]

theorem Memory.risingFrom_mono {lo lo' : Nat} (h : lo' ≤ lo) (m : Memory) :
    Memory.risingFrom lo m = true → Memory.risingFrom lo' m = true := by
  cases m with
  | nil => simp [Memory.risingFrom]
  | cons c rest => simp only [Memory.risingFrom, Bool.and_eq_true, decide_eq_true_eq]; intro ⟨a, b⟩; exact ⟨by omega, b⟩

theorem Memory.risingFrom_write {lo p : Nat} (h : lo ≤ p) (px : Pixel) (m : Memory) :
    Memory.risingFrom lo m = true → Memory.risingFrom lo (Memory.write p px m) = true := by
  induction m generalizing lo with
  | nil => simp [Memory.write, Memory.risingFrom, h]
  | cons c rest ih =>
    obtain ⟨q, qx⟩ := c
    simp only [Memory.write, Memory.risingFrom, Bool.and_eq_true, decide_eq_true_eq]
    intro ⟨a, b⟩
    split
    · next k => simp only [Memory.risingFrom, Bool.and_eq_true, decide_eq_true_eq]; exact ⟨a, ih k b⟩
    · split
      · next e => subst e; simp [Memory.risingFrom, h, b]
      · simp only [Memory.risingFrom, Bool.and_eq_true, decide_eq_true_eq]; exact ⟨h, by omega, b⟩

/-- A write keeps the canonical form. -/
theorem Memory.write_wf (p : Nat) (px : Pixel) (m : Memory) (h : Memory.wf m = true) :
    Memory.wf (Memory.write p px m) = true :=
  Memory.risingFrom_write (Nat.zero_le p) px m h

/-- A run of writes keeps the canonical form. -/
theorem Memory.fill_wf (n p : Nat) (px : Pixel) (m : Memory) (h : Memory.wf m = true) :
    Memory.wf (Memory.fill n p px m) = true := by
  induction n generalizing p m with
  | zero => exact h
  | succ k ih => exact ih (p + 1) _ (Memory.write_wf p px m h)

/-- The buffer after reset is in canonical form. -/
theorem Memory.reset_wf : Memory.wf State.reset.buffer = true := rfl

/-- A write past every listed cell appends. -/
theorem Memory.write_append (p : Nat) (px : Pixel) (m : Memory) (h : ∀ q ∈ m.map Prod.fst, q < p) :
    Memory.write p px m = m ++ [(p, px)] := by
  induction m with
  | nil => rfl
  | cons c rest ih =>
    obtain ⟨q, qx⟩ := c
    simp only [List.map_cons, List.mem_cons, forall_eq_or_imp] at h
    simp only [Memory.write, if_pos h.1, ih h.2, List.cons_append]

/-- The next cell of a raster is appended: the cells written stay an initial segment (20_memory.md R38). -/
theorem Memory.write_raster (p : Nat) (px : Pixel) (m : Memory) (h : m.map Prod.fst = List.range p) :
    (Memory.write p px m).map Prod.fst = List.range (p + 1) := by
  rw [Memory.write_append p px m (by simp [h])]
  simp [h, List.range_succ]

/-- A run of writes continues a raster (44_run_chunk.md R122). -/
theorem Memory.fill_raster (n p : Nat) (px : Pixel) (m : Memory) (h : m.map Prod.fst = List.range p) :
    (Memory.fill n p px m).map Prod.fst = List.range (p + n) := by
  induction n generalizing p m with
  | zero => exact h
  | succ k ih =>
    simp only [Memory.fill]
    rw [ih (p + 1) _ (Memory.write_raster p px m h), show p + 1 + k = p + (k + 1) by omega]

end Sys2Proof.Machine
end

