-- ==== Sys2Proof/Laws/State.lean ====
section
/-! SUPPORT. One lemma per field per update of State, so that no later proof unfolds a record update. -/

namespace Sys2Proof.Machine

/-! ### consume -/

@[simp] theorem State.consume_prev (n : Nat) (s : State) : (s.consume n).prev = s.prev := rfl
@[simp] theorem State.consume_cache (n : Nat) (s : State) : (s.consume n).cache = s.cache := rfl
@[simp] theorem State.consume_width (n : Nat) (s : State) : (s.consume n).width = s.width := rfl
@[simp] theorem State.consume_height (n : Nat) (s : State) : (s.consume n).height = s.height := rfl
@[simp] theorem State.consume_total (n : Nat) (s : State) : (s.consume n).total = s.total := rfl
@[simp] theorem State.consume_pos (n : Nat) (s : State) : (s.consume n).pos = s.pos := rfl
@[simp] theorem State.consume_sp (n : Nat) (s : State) : (s.consume n).sp = s.sp + n := rfl
@[simp] theorem State.consume_cause (n : Nat) (s : State) : (s.consume n).cause = s.cause := rfl
@[simp] theorem State.consume_fsm (n : Nat) (s : State) : (s.consume n).fsm = s.fsm := rfl
@[simp] theorem State.consume_latches (n : Nat) (s : State) : (s.consume n).latches = s.latches := rfl
@[simp] theorem State.consume_stream (n : Nat) (s : State) : (s.consume n).stream = s.stream := rfl
@[simp] theorem State.consume_buffer (n : Nat) (s : State) : (s.consume n).buffer = s.buffer := rfl
@[simp] theorem State.consume_bufferVoid (n : Nat) (s : State) : (s.consume n).bufferVoid = s.bufferVoid := rfl
@[simp] theorem State.consume_host (n : Nat) (s : State) : (s.consume n).host = s.host := rfl
@[simp] theorem State.consume_decodes (n : Nat) (s : State) : (s.consume n).decodes = s.decodes := rfl

/-! ### cacheWrite -/

@[simp] theorem State.cacheWrite_prev (px : Pixel) (s : State) : (s.cacheWrite px).prev = s.prev := rfl
@[simp] theorem State.cacheWrite_cache (px : Pixel) (s : State) : (s.cacheWrite px).cache = s.cache.set (pixelHash px).toNat px (pixelHash px).isLt := rfl
@[simp] theorem State.cacheWrite_width (px : Pixel) (s : State) : (s.cacheWrite px).width = s.width := rfl
@[simp] theorem State.cacheWrite_height (px : Pixel) (s : State) : (s.cacheWrite px).height = s.height := rfl
@[simp] theorem State.cacheWrite_total (px : Pixel) (s : State) : (s.cacheWrite px).total = s.total := rfl
@[simp] theorem State.cacheWrite_pos (px : Pixel) (s : State) : (s.cacheWrite px).pos = s.pos := rfl
@[simp] theorem State.cacheWrite_sp (px : Pixel) (s : State) : (s.cacheWrite px).sp = s.sp := rfl
@[simp] theorem State.cacheWrite_cause (px : Pixel) (s : State) : (s.cacheWrite px).cause = s.cause := rfl
@[simp] theorem State.cacheWrite_fsm (px : Pixel) (s : State) : (s.cacheWrite px).fsm = s.fsm := rfl
@[simp] theorem State.cacheWrite_latches (px : Pixel) (s : State) : (s.cacheWrite px).latches = s.latches := rfl
@[simp] theorem State.cacheWrite_stream (px : Pixel) (s : State) : (s.cacheWrite px).stream = s.stream := rfl
@[simp] theorem State.cacheWrite_buffer (px : Pixel) (s : State) : (s.cacheWrite px).buffer = s.buffer := rfl
@[simp] theorem State.cacheWrite_bufferVoid (px : Pixel) (s : State) : (s.cacheWrite px).bufferVoid = s.bufferVoid := rfl
@[simp] theorem State.cacheWrite_host (px : Pixel) (s : State) : (s.cacheWrite px).host = s.host := rfl
@[simp] theorem State.cacheWrite_decodes (px : Pixel) (s : State) : (s.cacheWrite px).decodes = s.decodes := rfl

/-! ### pixWrite -/

@[simp] theorem State.pixWrite_prev (px : Pixel) (s : State) : (s.pixWrite px).prev = s.prev := rfl
@[simp] theorem State.pixWrite_cache (px : Pixel) (s : State) : (s.pixWrite px).cache = s.cache := rfl
@[simp] theorem State.pixWrite_width (px : Pixel) (s : State) : (s.pixWrite px).width = s.width := rfl
@[simp] theorem State.pixWrite_height (px : Pixel) (s : State) : (s.pixWrite px).height = s.height := rfl
@[simp] theorem State.pixWrite_total (px : Pixel) (s : State) : (s.pixWrite px).total = s.total := rfl
@[simp] theorem State.pixWrite_pos (px : Pixel) (s : State) : (s.pixWrite px).pos = s.pos := rfl
@[simp] theorem State.pixWrite_sp (px : Pixel) (s : State) : (s.pixWrite px).sp = s.sp := rfl
@[simp] theorem State.pixWrite_cause (px : Pixel) (s : State) : (s.pixWrite px).cause = s.cause := rfl
@[simp] theorem State.pixWrite_fsm (px : Pixel) (s : State) : (s.pixWrite px).fsm = s.fsm := rfl
@[simp] theorem State.pixWrite_latches (px : Pixel) (s : State) : (s.pixWrite px).latches = s.latches := rfl
@[simp] theorem State.pixWrite_stream (px : Pixel) (s : State) : (s.pixWrite px).stream = s.stream := rfl
@[simp] theorem State.pixWrite_buffer (px : Pixel) (s : State) : (s.pixWrite px).buffer = Memory.write s.pos.toNat px s.buffer := rfl
@[simp] theorem State.pixWrite_bufferVoid (px : Pixel) (s : State) : (s.pixWrite px).bufferVoid = s.bufferVoid := rfl
@[simp] theorem State.pixWrite_host (px : Pixel) (s : State) : (s.pixWrite px).host = s.host := rfl
@[simp] theorem State.pixWrite_decodes (px : Pixel) (s : State) : (s.pixWrite px).decodes = s.decodes := rfl

/-! ### runWrite -/

@[simp] theorem State.runWrite_prev (n : Nat) (s : State) : (s.runWrite n).prev = s.prev := rfl
@[simp] theorem State.runWrite_cache (n : Nat) (s : State) : (s.runWrite n).cache = s.cache := rfl
@[simp] theorem State.runWrite_width (n : Nat) (s : State) : (s.runWrite n).width = s.width := rfl
@[simp] theorem State.runWrite_height (n : Nat) (s : State) : (s.runWrite n).height = s.height := rfl
@[simp] theorem State.runWrite_total (n : Nat) (s : State) : (s.runWrite n).total = s.total := rfl
@[simp] theorem State.runWrite_pos (n : Nat) (s : State) : (s.runWrite n).pos = s.pos := rfl
@[simp] theorem State.runWrite_sp (n : Nat) (s : State) : (s.runWrite n).sp = s.sp := rfl
@[simp] theorem State.runWrite_cause (n : Nat) (s : State) : (s.runWrite n).cause = s.cause := rfl
@[simp] theorem State.runWrite_fsm (n : Nat) (s : State) : (s.runWrite n).fsm = s.fsm := rfl
@[simp] theorem State.runWrite_latches (n : Nat) (s : State) : (s.runWrite n).latches = s.latches := rfl
@[simp] theorem State.runWrite_stream (n : Nat) (s : State) : (s.runWrite n).stream = s.stream := rfl
@[simp] theorem State.runWrite_buffer (n : Nat) (s : State) : (s.runWrite n).buffer = Memory.fill n s.pos.toNat s.prev s.buffer := rfl
@[simp] theorem State.runWrite_bufferVoid (n : Nat) (s : State) : (s.runWrite n).bufferVoid = s.bufferVoid := rfl
@[simp] theorem State.runWrite_host (n : Nat) (s : State) : (s.runWrite n).host = s.host := rfl
@[simp] theorem State.runWrite_decodes (n : Nat) (s : State) : (s.runWrite n).decodes = s.decodes := rfl

/-! ### setPrev -/

@[simp] theorem State.setPrev_prev (px : Pixel) (s : State) : (s.setPrev px).prev = px := rfl
@[simp] theorem State.setPrev_cache (px : Pixel) (s : State) : (s.setPrev px).cache = s.cache := rfl
@[simp] theorem State.setPrev_width (px : Pixel) (s : State) : (s.setPrev px).width = s.width := rfl
@[simp] theorem State.setPrev_height (px : Pixel) (s : State) : (s.setPrev px).height = s.height := rfl
@[simp] theorem State.setPrev_total (px : Pixel) (s : State) : (s.setPrev px).total = s.total := rfl
@[simp] theorem State.setPrev_pos (px : Pixel) (s : State) : (s.setPrev px).pos = s.pos := rfl
@[simp] theorem State.setPrev_sp (px : Pixel) (s : State) : (s.setPrev px).sp = s.sp := rfl
@[simp] theorem State.setPrev_cause (px : Pixel) (s : State) : (s.setPrev px).cause = s.cause := rfl
@[simp] theorem State.setPrev_fsm (px : Pixel) (s : State) : (s.setPrev px).fsm = s.fsm := rfl
@[simp] theorem State.setPrev_latches (px : Pixel) (s : State) : (s.setPrev px).latches = s.latches := rfl
@[simp] theorem State.setPrev_stream (px : Pixel) (s : State) : (s.setPrev px).stream = s.stream := rfl
@[simp] theorem State.setPrev_buffer (px : Pixel) (s : State) : (s.setPrev px).buffer = s.buffer := rfl
@[simp] theorem State.setPrev_bufferVoid (px : Pixel) (s : State) : (s.setPrev px).bufferVoid = s.bufferVoid := rfl
@[simp] theorem State.setPrev_host (px : Pixel) (s : State) : (s.setPrev px).host = s.host := rfl
@[simp] theorem State.setPrev_decodes (px : Pixel) (s : State) : (s.setPrev px).decodes = s.decodes := rfl

/-! ### advance -/

@[simp] theorem State.advance_prev (n : Nat) (s : State) : (s.advance n).prev = s.prev := rfl
@[simp] theorem State.advance_cache (n : Nat) (s : State) : (s.advance n).cache = s.cache := rfl
@[simp] theorem State.advance_width (n : Nat) (s : State) : (s.advance n).width = s.width := rfl
@[simp] theorem State.advance_height (n : Nat) (s : State) : (s.advance n).height = s.height := rfl
@[simp] theorem State.advance_total (n : Nat) (s : State) : (s.advance n).total = s.total := rfl
@[simp] theorem State.advance_pos (n : Nat) (s : State) : (s.advance n).pos = s.pos + BitVec.ofNat 64 n := rfl
@[simp] theorem State.advance_sp (n : Nat) (s : State) : (s.advance n).sp = s.sp := rfl
@[simp] theorem State.advance_cause (n : Nat) (s : State) : (s.advance n).cause = s.cause := rfl
@[simp] theorem State.advance_fsm (n : Nat) (s : State) : (s.advance n).fsm = nextFsm (s.pos + BitVec.ofNat 64 n) s.total := rfl
@[simp] theorem State.advance_latches (n : Nat) (s : State) : (s.advance n).latches = s.latches := rfl
@[simp] theorem State.advance_stream (n : Nat) (s : State) : (s.advance n).stream = s.stream := rfl
@[simp] theorem State.advance_buffer (n : Nat) (s : State) : (s.advance n).buffer = s.buffer := rfl
@[simp] theorem State.advance_bufferVoid (n : Nat) (s : State) : (s.advance n).bufferVoid = s.bufferVoid := rfl
@[simp] theorem State.advance_host (n : Nat) (s : State) : (s.advance n).host = s.host := rfl
@[simp] theorem State.advance_decodes (n : Nat) (s : State) : (s.advance n).decodes = s.decodes := rfl

/-! ### latchLiteral -/

@[simp] theorem State.latchLiteral_prev (k : Bool) (r g b : Byte) (s : State) : (s.latchLiteral k r g b).prev = s.prev := rfl
@[simp] theorem State.latchLiteral_cache (k : Bool) (r g b : Byte) (s : State) : (s.latchLiteral k r g b).cache = s.cache := rfl
@[simp] theorem State.latchLiteral_width (k : Bool) (r g b : Byte) (s : State) : (s.latchLiteral k r g b).width = s.width := rfl
@[simp] theorem State.latchLiteral_height (k : Bool) (r g b : Byte) (s : State) : (s.latchLiteral k r g b).height = s.height := rfl
@[simp] theorem State.latchLiteral_total (k : Bool) (r g b : Byte) (s : State) : (s.latchLiteral k r g b).total = s.total := rfl
@[simp] theorem State.latchLiteral_pos (k : Bool) (r g b : Byte) (s : State) : (s.latchLiteral k r g b).pos = s.pos := rfl
@[simp] theorem State.latchLiteral_sp (k : Bool) (r g b : Byte) (s : State) : (s.latchLiteral k r g b).sp = s.sp := rfl
@[simp] theorem State.latchLiteral_cause (k : Bool) (r g b : Byte) (s : State) : (s.latchLiteral k r g b).cause = s.cause := rfl
@[simp] theorem State.latchLiteral_fsm (k : Bool) (r g b : Byte) (s : State) : (s.latchLiteral k r g b).fsm = s.fsm := rfl
@[simp] theorem State.latchLiteral_latches (k : Bool) (r g b : Byte) (s : State) : (s.latchLiteral k r g b).latches = { s.latches with isRgba := k, litR := r, litG := g, litB := b } := rfl
@[simp] theorem State.latchLiteral_stream (k : Bool) (r g b : Byte) (s : State) : (s.latchLiteral k r g b).stream = s.stream := rfl
@[simp] theorem State.latchLiteral_buffer (k : Bool) (r g b : Byte) (s : State) : (s.latchLiteral k r g b).buffer = s.buffer := rfl
@[simp] theorem State.latchLiteral_bufferVoid (k : Bool) (r g b : Byte) (s : State) : (s.latchLiteral k r g b).bufferVoid = s.bufferVoid := rfl
@[simp] theorem State.latchLiteral_host (k : Bool) (r g b : Byte) (s : State) : (s.latchLiteral k r g b).host = s.host := rfl
@[simp] theorem State.latchLiteral_decodes (k : Bool) (r g b : Byte) (s : State) : (s.latchLiteral k r g b).decodes = s.decodes := rfl

/-! ### latchLuma -/

@[simp] theorem State.latchLuma_prev (f : BitVec 6) (s : State) : (s.latchLuma f).prev = s.prev := rfl
@[simp] theorem State.latchLuma_cache (f : BitVec 6) (s : State) : (s.latchLuma f).cache = s.cache := rfl
@[simp] theorem State.latchLuma_width (f : BitVec 6) (s : State) : (s.latchLuma f).width = s.width := rfl
@[simp] theorem State.latchLuma_height (f : BitVec 6) (s : State) : (s.latchLuma f).height = s.height := rfl
@[simp] theorem State.latchLuma_total (f : BitVec 6) (s : State) : (s.latchLuma f).total = s.total := rfl
@[simp] theorem State.latchLuma_pos (f : BitVec 6) (s : State) : (s.latchLuma f).pos = s.pos := rfl
@[simp] theorem State.latchLuma_sp (f : BitVec 6) (s : State) : (s.latchLuma f).sp = s.sp := rfl
@[simp] theorem State.latchLuma_cause (f : BitVec 6) (s : State) : (s.latchLuma f).cause = s.cause := rfl
@[simp] theorem State.latchLuma_fsm (f : BitVec 6) (s : State) : (s.latchLuma f).fsm = s.fsm := rfl
@[simp] theorem State.latchLuma_latches (f : BitVec 6) (s : State) : (s.latchLuma f).latches = { s.latches with fdgHold := f } := rfl
@[simp] theorem State.latchLuma_stream (f : BitVec 6) (s : State) : (s.latchLuma f).stream = s.stream := rfl
@[simp] theorem State.latchLuma_buffer (f : BitVec 6) (s : State) : (s.latchLuma f).buffer = s.buffer := rfl
@[simp] theorem State.latchLuma_bufferVoid (f : BitVec 6) (s : State) : (s.latchLuma f).bufferVoid = s.bufferVoid := rfl
@[simp] theorem State.latchLuma_host (f : BitVec 6) (s : State) : (s.latchLuma f).host = s.host := rfl
@[simp] theorem State.latchLuma_decodes (f : BitVec 6) (s : State) : (s.latchLuma f).decodes = s.decodes := rfl

/-! ### pend -/

@[simp] theorem State.pend_prev (px : Pixel) (upd : Bool) (s : State) : (s.pend px upd).prev = s.prev := rfl
@[simp] theorem State.pend_cache (px : Pixel) (upd : Bool) (s : State) : (s.pend px upd).cache = s.cache := rfl
@[simp] theorem State.pend_width (px : Pixel) (upd : Bool) (s : State) : (s.pend px upd).width = s.width := rfl
@[simp] theorem State.pend_height (px : Pixel) (upd : Bool) (s : State) : (s.pend px upd).height = s.height := rfl
@[simp] theorem State.pend_total (px : Pixel) (upd : Bool) (s : State) : (s.pend px upd).total = s.total := rfl
@[simp] theorem State.pend_pos (px : Pixel) (upd : Bool) (s : State) : (s.pend px upd).pos = s.pos := rfl
@[simp] theorem State.pend_sp (px : Pixel) (upd : Bool) (s : State) : (s.pend px upd).sp = s.sp := rfl
@[simp] theorem State.pend_cause (px : Pixel) (upd : Bool) (s : State) : (s.pend px upd).cause = s.cause := rfl
@[simp] theorem State.pend_fsm (px : Pixel) (upd : Bool) (s : State) : (s.pend px upd).fsm = s.fsm := rfl
@[simp] theorem State.pend_latches (px : Pixel) (upd : Bool) (s : State) : (s.pend px upd).latches = { s.latches with cur := px, upd := upd } := rfl
@[simp] theorem State.pend_stream (px : Pixel) (upd : Bool) (s : State) : (s.pend px upd).stream = s.stream := rfl
@[simp] theorem State.pend_buffer (px : Pixel) (upd : Bool) (s : State) : (s.pend px upd).buffer = s.buffer := rfl
@[simp] theorem State.pend_bufferVoid (px : Pixel) (upd : Bool) (s : State) : (s.pend px upd).bufferVoid = s.bufferVoid := rfl
@[simp] theorem State.pend_host (px : Pixel) (upd : Bool) (s : State) : (s.pend px upd).host = s.host := rfl
@[simp] theorem State.pend_decodes (px : Pixel) (upd : Bool) (s : State) : (s.pend px upd).decodes = s.decodes := rfl

/-! ### latchRun -/

@[simp] theorem State.latchRun_prev (n : BitVec 6) (s : State) : (s.latchRun n).prev = s.prev := rfl
@[simp] theorem State.latchRun_cache (n : BitVec 6) (s : State) : (s.latchRun n).cache = s.cache := rfl
@[simp] theorem State.latchRun_width (n : BitVec 6) (s : State) : (s.latchRun n).width = s.width := rfl
@[simp] theorem State.latchRun_height (n : BitVec 6) (s : State) : (s.latchRun n).height = s.height := rfl
@[simp] theorem State.latchRun_total (n : BitVec 6) (s : State) : (s.latchRun n).total = s.total := rfl
@[simp] theorem State.latchRun_pos (n : BitVec 6) (s : State) : (s.latchRun n).pos = s.pos := rfl
@[simp] theorem State.latchRun_sp (n : BitVec 6) (s : State) : (s.latchRun n).sp = s.sp := rfl
@[simp] theorem State.latchRun_cause (n : BitVec 6) (s : State) : (s.latchRun n).cause = s.cause := rfl
@[simp] theorem State.latchRun_fsm (n : BitVec 6) (s : State) : (s.latchRun n).fsm = s.fsm := rfl
@[simp] theorem State.latchRun_latches (n : BitVec 6) (s : State) : (s.latchRun n).latches = { s.latches with runcnt := n } := rfl
@[simp] theorem State.latchRun_stream (n : BitVec 6) (s : State) : (s.latchRun n).stream = s.stream := rfl
@[simp] theorem State.latchRun_buffer (n : BitVec 6) (s : State) : (s.latchRun n).buffer = s.buffer := rfl
@[simp] theorem State.latchRun_bufferVoid (n : BitVec 6) (s : State) : (s.latchRun n).bufferVoid = s.bufferVoid := rfl
@[simp] theorem State.latchRun_host (n : BitVec 6) (s : State) : (s.latchRun n).host = s.host := rfl
@[simp] theorem State.latchRun_decodes (n : BitVec 6) (s : State) : (s.latchRun n).decodes = s.decodes := rfl

/-! ### raise -/

@[simp] theorem State.raise_prev (c : Cause) (s : State) : (s.raise c).prev = s.prev := rfl
@[simp] theorem State.raise_cache (c : Cause) (s : State) : (s.raise c).cache = s.cache := rfl
@[simp] theorem State.raise_width (c : Cause) (s : State) : (s.raise c).width = s.width := rfl
@[simp] theorem State.raise_height (c : Cause) (s : State) : (s.raise c).height = s.height := rfl
@[simp] theorem State.raise_total (c : Cause) (s : State) : (s.raise c).total = s.total := rfl
@[simp] theorem State.raise_pos (c : Cause) (s : State) : (s.raise c).pos = s.pos := rfl
@[simp] theorem State.raise_sp (c : Cause) (s : State) : (s.raise c).sp = s.sp := rfl
@[simp] theorem State.raise_cause (c : Cause) (s : State) : (s.raise c).cause = c := rfl
@[simp] theorem State.raise_fsm (c : Cause) (s : State) : (s.raise c).fsm = .fail := rfl
@[simp] theorem State.raise_latches (c : Cause) (s : State) : (s.raise c).latches = s.latches := rfl
@[simp] theorem State.raise_stream (c : Cause) (s : State) : (s.raise c).stream = s.stream := rfl
@[simp] theorem State.raise_buffer (c : Cause) (s : State) : (s.raise c).buffer = s.buffer := rfl
@[simp] theorem State.raise_bufferVoid (c : Cause) (s : State) : (s.raise c).bufferVoid = s.bufferVoid := rfl
@[simp] theorem State.raise_host (c : Cause) (s : State) : (s.raise c).host = s.host := rfl
@[simp] theorem State.raise_decodes (c : Cause) (s : State) : (s.raise c).decodes = s.decodes := rfl

/-! ### endStream -/

@[simp] theorem State.endStream_prev (k : Nat) (s : State) : (s.endStream k).prev = s.prev := rfl
@[simp] theorem State.endStream_cache (k : Nat) (s : State) : (s.endStream k).cache = s.cache := rfl
@[simp] theorem State.endStream_width (k : Nat) (s : State) : (s.endStream k).width = s.width := rfl
@[simp] theorem State.endStream_height (k : Nat) (s : State) : (s.endStream k).height = s.height := rfl
@[simp] theorem State.endStream_total (k : Nat) (s : State) : (s.endStream k).total = s.total := rfl
@[simp] theorem State.endStream_pos (k : Nat) (s : State) : (s.endStream k).pos = s.pos := rfl
@[simp] theorem State.endStream_sp (k : Nat) (s : State) : (s.endStream k).sp = s.sp := rfl
@[simp] theorem State.endStream_cause (k : Nat) (s : State) : (s.endStream k).cause = s.cause := rfl
@[simp] theorem State.endStream_fsm (k : Nat) (s : State) : (s.endStream k).fsm = s.fsm := rfl
@[simp] theorem State.endStream_latches (k : Nat) (s : State) : (s.endStream k).latches = s.latches := rfl
@[simp] theorem State.endStream_stream (k : Nat) (s : State) : (s.endStream k).stream = s.stream.take (s.sp + k) := rfl
@[simp] theorem State.endStream_buffer (k : Nat) (s : State) : (s.endStream k).buffer = s.buffer := rfl
@[simp] theorem State.endStream_bufferVoid (k : Nat) (s : State) : (s.endStream k).bufferVoid = s.bufferVoid := rfl
@[simp] theorem State.endStream_host (k : Nat) (s : State) : (s.endStream k).host = s.host := rfl
@[simp] theorem State.endStream_decodes (k : Nat) (s : State) : (s.endStream k).decodes = s.decodes := rfl

/-! ### cacheUpdate -/

@[simp] theorem State.cacheUpdate_prev (upd : Bool) (px : Pixel) (s : State) : (s.cacheUpdate upd px).prev = s.prev := by cases upd <;> rfl
@[simp] theorem State.cacheUpdate_cache (upd : Bool) (px : Pixel) (s : State) :
    (s.cacheUpdate upd px).cache = if upd then s.cache.set (pixelHash px).toNat px (pixelHash px).isLt else s.cache := by
  cases upd <;> rfl
@[simp] theorem State.cacheUpdate_width (upd : Bool) (px : Pixel) (s : State) : (s.cacheUpdate upd px).width = s.width := by cases upd <;> rfl
@[simp] theorem State.cacheUpdate_height (upd : Bool) (px : Pixel) (s : State) : (s.cacheUpdate upd px).height = s.height := by cases upd <;> rfl
@[simp] theorem State.cacheUpdate_total (upd : Bool) (px : Pixel) (s : State) : (s.cacheUpdate upd px).total = s.total := by cases upd <;> rfl
@[simp] theorem State.cacheUpdate_pos (upd : Bool) (px : Pixel) (s : State) : (s.cacheUpdate upd px).pos = s.pos := by cases upd <;> rfl
@[simp] theorem State.cacheUpdate_sp (upd : Bool) (px : Pixel) (s : State) : (s.cacheUpdate upd px).sp = s.sp := by cases upd <;> rfl
@[simp] theorem State.cacheUpdate_cause (upd : Bool) (px : Pixel) (s : State) : (s.cacheUpdate upd px).cause = s.cause := by cases upd <;> rfl
@[simp] theorem State.cacheUpdate_fsm (upd : Bool) (px : Pixel) (s : State) : (s.cacheUpdate upd px).fsm = s.fsm := by cases upd <;> rfl
@[simp] theorem State.cacheUpdate_latches (upd : Bool) (px : Pixel) (s : State) : (s.cacheUpdate upd px).latches = s.latches := by cases upd <;> rfl
@[simp] theorem State.cacheUpdate_stream (upd : Bool) (px : Pixel) (s : State) : (s.cacheUpdate upd px).stream = s.stream := by cases upd <;> rfl
@[simp] theorem State.cacheUpdate_buffer (upd : Bool) (px : Pixel) (s : State) : (s.cacheUpdate upd px).buffer = s.buffer := by cases upd <;> rfl
@[simp] theorem State.cacheUpdate_bufferVoid (upd : Bool) (px : Pixel) (s : State) : (s.cacheUpdate upd px).bufferVoid = s.bufferVoid := by cases upd <;> rfl
@[simp] theorem State.cacheUpdate_host (upd : Bool) (px : Pixel) (s : State) : (s.cacheUpdate upd px).host = s.host := by cases upd <;> rfl
@[simp] theorem State.cacheUpdate_decodes (upd : Bool) (px : Pixel) (s : State) : (s.cacheUpdate upd px).decodes = s.decodes := by cases upd <;> rfl

/-! ### commitPending -/

@[simp] theorem State.commitPending_prev (s : State) :
    s.commitPending.prev = s.latches.cur := by simp [State.commitPending]
@[simp] theorem State.commitPending_cache (s : State) :
    s.commitPending.cache = if s.latches.upd then s.cache.set (pixelHash s.latches.cur).toNat s.latches.cur (pixelHash s.latches.cur).isLt else s.cache := by simp [State.commitPending]
@[simp] theorem State.commitPending_width (s : State) :
    s.commitPending.width = s.width := by simp [State.commitPending]
@[simp] theorem State.commitPending_height (s : State) :
    s.commitPending.height = s.height := by simp [State.commitPending]
@[simp] theorem State.commitPending_total (s : State) :
    s.commitPending.total = s.total := by simp [State.commitPending]
@[simp] theorem State.commitPending_pos (s : State) :
    s.commitPending.pos = s.pos + 1#64 := by simp [State.commitPending]
@[simp] theorem State.commitPending_sp (s : State) :
    s.commitPending.sp = s.sp := by simp [State.commitPending]
@[simp] theorem State.commitPending_cause (s : State) :
    s.commitPending.cause = s.cause := by simp [State.commitPending]
@[simp] theorem State.commitPending_fsm (s : State) :
    s.commitPending.fsm = nextFsm (s.pos + 1#64) s.total := by simp [State.commitPending]
@[simp] theorem State.commitPending_latches (s : State) :
    s.commitPending.latches = s.latches := by simp [State.commitPending]
@[simp] theorem State.commitPending_stream (s : State) :
    s.commitPending.stream = s.stream := by simp [State.commitPending]
@[simp] theorem State.commitPending_buffer (s : State) :
    s.commitPending.buffer = Memory.write s.pos.toNat s.latches.cur s.buffer := by simp [State.commitPending]
@[simp] theorem State.commitPending_bufferVoid (s : State) :
    s.commitPending.bufferVoid = s.bufferVoid := by simp [State.commitPending]
@[simp] theorem State.commitPending_host (s : State) :
    s.commitPending.host = s.host := by simp [State.commitPending]
@[simp] theorem State.commitPending_decodes (s : State) :
    s.commitPending.decodes = s.decodes := by simp [State.commitPending]

/-! ### emit -/

@[simp] theorem State.emit_prev (px : Pixel) (upd : Bool) (s : State) :
    (s.emit px upd).prev = px := by simp [State.emit]
@[simp] theorem State.emit_cache (px : Pixel) (upd : Bool) (s : State) :
    (s.emit px upd).cache = if upd then s.cache.set (pixelHash px).toNat px (pixelHash px).isLt else s.cache := by cases upd <;> rfl
@[simp] theorem State.emit_width (px : Pixel) (upd : Bool) (s : State) :
    (s.emit px upd).width = s.width := by simp [State.emit]
@[simp] theorem State.emit_height (px : Pixel) (upd : Bool) (s : State) :
    (s.emit px upd).height = s.height := by simp [State.emit]
@[simp] theorem State.emit_total (px : Pixel) (upd : Bool) (s : State) :
    (s.emit px upd).total = s.total := by simp [State.emit]
@[simp] theorem State.emit_pos (px : Pixel) (upd : Bool) (s : State) :
    (s.emit px upd).pos = s.pos + 1#64 := by simp [State.emit]
@[simp] theorem State.emit_sp (px : Pixel) (upd : Bool) (s : State) :
    (s.emit px upd).sp = s.sp := by simp [State.emit]
@[simp] theorem State.emit_cause (px : Pixel) (upd : Bool) (s : State) :
    (s.emit px upd).cause = s.cause := by simp [State.emit]
@[simp] theorem State.emit_fsm (px : Pixel) (upd : Bool) (s : State) :
    (s.emit px upd).fsm = nextFsm (s.pos + 1#64) s.total := by simp [State.emit]
@[simp] theorem State.emit_latches (px : Pixel) (upd : Bool) (s : State) :
    (s.emit px upd).latches = { s.latches with cur := px, upd := upd } := by simp [State.emit]
@[simp] theorem State.emit_stream (px : Pixel) (upd : Bool) (s : State) :
    (s.emit px upd).stream = s.stream := by simp [State.emit]
@[simp] theorem State.emit_buffer (px : Pixel) (upd : Bool) (s : State) :
    (s.emit px upd).buffer = Memory.write s.pos.toNat px s.buffer := by simp [State.emit]
@[simp] theorem State.emit_bufferVoid (px : Pixel) (upd : Bool) (s : State) :
    (s.emit px upd).bufferVoid = s.bufferVoid := by simp [State.emit]
@[simp] theorem State.emit_host (px : Pixel) (upd : Bool) (s : State) :
    (s.emit px upd).host = s.host := by simp [State.emit]
@[simp] theorem State.emit_decodes (px : Pixel) (upd : Bool) (s : State) :
    (s.emit px upd).decodes = s.decodes := by simp [State.emit]

/-! ### raiseShortRead -/

@[simp] theorem State.raiseShortRead_prev (s : State) : s.raiseShortRead.prev = s.prev := rfl
@[simp] theorem State.raiseShortRead_cache (s : State) : s.raiseShortRead.cache = s.cache := rfl
@[simp] theorem State.raiseShortRead_width (s : State) : s.raiseShortRead.width = s.width := rfl
@[simp] theorem State.raiseShortRead_height (s : State) : s.raiseShortRead.height = s.height := rfl
@[simp] theorem State.raiseShortRead_total (s : State) : s.raiseShortRead.total = s.total := rfl
@[simp] theorem State.raiseShortRead_pos (s : State) : s.raiseShortRead.pos = s.pos := rfl
@[simp] theorem State.raiseShortRead_sp (s : State) : s.raiseShortRead.sp = s.sp + s.bytesLeft.length := rfl
@[simp] theorem State.raiseShortRead_cause (s : State) : s.raiseShortRead.cause = .shortRead := rfl
@[simp] theorem State.raiseShortRead_fsm (s : State) : s.raiseShortRead.fsm = .fail := rfl
@[simp] theorem State.raiseShortRead_latches (s : State) : s.raiseShortRead.latches = s.latches := rfl
@[simp] theorem State.raiseShortRead_stream (s : State) : s.raiseShortRead.stream = s.stream := rfl
@[simp] theorem State.raiseShortRead_buffer (s : State) : s.raiseShortRead.buffer = s.buffer := rfl
@[simp] theorem State.raiseShortRead_bufferVoid (s : State) : s.raiseShortRead.bufferVoid = s.bufferVoid := rfl
@[simp] theorem State.raiseShortRead_host (s : State) : s.raiseShortRead.host = s.host := rfl
@[simp] theorem State.raiseShortRead_decodes (s : State) : s.raiseShortRead.decodes = s.decodes := rfl

/-! ### startLoad -/

@[simp] theorem State.startLoad_prev (w h : BitVec 32) (str : List Byte) (s : State) : (s.startLoad w h str).prev = Config.prevInit := rfl
@[simp] theorem State.startLoad_cache (w h : BitVec 32) (str : List Byte) (s : State) : (s.startLoad w h str).cache = cacheInitial := rfl
@[simp] theorem State.startLoad_width (w h : BitVec 32) (str : List Byte) (s : State) : (s.startLoad w h str).width = w := rfl
@[simp] theorem State.startLoad_height (w h : BitVec 32) (str : List Byte) (s : State) : (s.startLoad w h str).height = h := rfl
@[simp] theorem State.startLoad_total (w h : BitVec 32) (str : List Byte) (s : State) : (s.startLoad w h str).total = w.setWidth 64 * h.setWidth 64 := rfl
@[simp] theorem State.startLoad_pos (w h : BitVec 32) (str : List Byte) (s : State) : (s.startLoad w h str).pos = 0#64 := rfl
@[simp] theorem State.startLoad_sp (w h : BitVec 32) (str : List Byte) (s : State) : (s.startLoad w h str).sp = 0 := rfl
@[simp] theorem State.startLoad_cause (w h : BitVec 32) (str : List Byte) (s : State) : (s.startLoad w h str).cause = .noViolation := rfl
@[simp] theorem State.startLoad_fsm (w h : BitVec 32) (str : List Byte) (s : State) : (s.startLoad w h str).fsm = .op := rfl
@[simp] theorem State.startLoad_latches (w h : BitVec 32) (str : List Byte) (s : State) : (s.startLoad w h str).latches = Latches.initial := rfl
@[simp] theorem State.startLoad_stream (w h : BitVec 32) (str : List Byte) (s : State) : (s.startLoad w h str).stream = str := rfl
@[simp] theorem State.startLoad_buffer (w h : BitVec 32) (str : List Byte) (s : State) : (s.startLoad w h str).buffer = [] := rfl
@[simp] theorem State.startLoad_bufferVoid (w h : BitVec 32) (str : List Byte) (s : State) : (s.startLoad w h str).bufferVoid = false := rfl
@[simp] theorem State.startLoad_host (w h : BitVec 32) (str : List Byte) (s : State) : (s.startLoad w h str).host = s.host := rfl
@[simp] theorem State.startLoad_decodes (w h : BitVec 32) (str : List Byte) (s : State) : (s.startLoad w h str).decodes = s.decodes + 1 := rfl

/-! ### hardReset -/

@[simp] theorem State.hardReset_prev (s : State) : s.hardReset.prev = Config.prevInit := rfl
@[simp] theorem State.hardReset_cache (s : State) : s.hardReset.cache = cacheInitial := rfl
@[simp] theorem State.hardReset_width (s : State) : s.hardReset.width = 0#32 := rfl
@[simp] theorem State.hardReset_height (s : State) : s.hardReset.height = 0#32 := rfl
@[simp] theorem State.hardReset_total (s : State) : s.hardReset.total = 0#64 := rfl
@[simp] theorem State.hardReset_pos (s : State) : s.hardReset.pos = 0#64 := rfl
@[simp] theorem State.hardReset_sp (s : State) : s.hardReset.sp = 0 := rfl
@[simp] theorem State.hardReset_cause (s : State) : s.hardReset.cause = .noViolation := rfl
@[simp] theorem State.hardReset_fsm (s : State) : s.hardReset.fsm = .idle := rfl
@[simp] theorem State.hardReset_latches (s : State) : s.hardReset.latches = Latches.initial := rfl
@[simp] theorem State.hardReset_stream (s : State) : s.hardReset.stream = [] := rfl
@[simp] theorem State.hardReset_buffer (s : State) : s.hardReset.buffer = s.buffer := rfl
@[simp] theorem State.hardReset_bufferVoid (s : State) : s.hardReset.bufferVoid = s.voidAfterReset := rfl
@[simp] theorem State.hardReset_host (s : State) : s.hardReset.host = s.host := rfl
@[simp] theorem State.hardReset_decodes (s : State) : s.hardReset.decodes = s.decodes := rfl

end Sys2Proof.Machine
end

