-- ==== Sys2Proof/Laws/Ops.lean ====
section
/-! SUPPORT. One lemma per shared operation that says once everything it can do. -/

namespace Sys2Proof.Machine

/-! ### The cache -/

/-- A cache write, then a read of any entry (40_chunk_cycle.md R76). -/
theorem State.cacheRead_cacheWrite (px : Pixel) (s : State) (i : BitVec 6) :
    (s.cacheWrite px).cacheRead i = if i = pixelHash px then px else s.cacheRead i := by
  simp only [State.cacheRead, State.cacheWrite_cache, Vector.getElem_set]
  by_cases h : i = pixelHash px
  · subst h; simp
  · rw [if_neg h, if_neg (fun e => h (BitVec.eq_of_toNat_eq e.symm))]

/-- Two states with one cache read alike. -/
theorem State.cacheRead_congr {s t : State} (h : s.cache = t.cache) (i : BitVec 6) : s.cacheRead i = t.cacheRead i := by
  simp only [State.cacheRead, h]

/-- The emit-and-commit tail, then a read of any entry. -/
theorem State.cacheRead_emit (px : Pixel) (upd : Bool) (s : State) (i : BitVec 6) :
    (s.emit px upd).cacheRead i = if upd = true ∧ i = pixelHash px then px else s.cacheRead i := by
  cases upd
  · exact State.cacheRead_congr (by simp) i
  · simpa using (State.cacheRead_congr (s := s.emit px true) (t := s.cacheWrite px) (by simp) i).trans
      (State.cacheRead_cacheWrite px s i)

/-- The initial cache (10_state.md R16). -/
theorem State.cacheRead_initial (s : State) (h : s.cache = cacheInitial) (i : BitVec 6) :
    s.cacheRead i = if i = 53#6 then Config.prevInit else Pixel.zero := by
  simp only [State.cacheRead, h, cacheInitial, Vector.getElem_set, Vector.getElem_replicate]
  by_cases e : i = 53#6
  · subst e; rfl
  · rw [if_neg e, if_neg (fun c => e (BitVec.eq_of_toNat_eq c.symm))]

/-! ### The next state of the FSM after an advance -/

theorem nextFsm_phase (p total : BitVec 64) : (nextFsm p total).phase ≠ .failed ∧ (nextFsm p total).phase ≠ .idle ∧
    (nextFsm p total).phase ≠ .done := by
  unfold nextFsm; split <;> decide

/-- In a decode that runs or has reached DONE, cells have their meaning (20_memory.md R47). -/
theorem State.cellsVoid_eq_false {s : State} (h : s.phase ≠ .failed) (h' : s.phase ≠ .idle) : s.cellsVoid = false := by
  unfold State.cellsVoid
  cases hp : s.phase <;> first | rfl | exact absurd hp h | exact absurd hp h'

/-- Where cells have their meaning, one the block has written holds the converted pixel (20_memory.md R41). -/
theorem State.hostCell_of_read {s : State} {p : Nat} {px : Pixel} (h : s.cellsVoid = false)
    (hr : Memory.read s.buffer p = some px) : s.hostCell p = Config.convert px := by
  simp [State.hostCell, h, hr]

/-- Where cells mean nothing, each is a free value (93_implementation_defined.md U1). -/
theorem State.hostCell_of_void {s : State} (h : s.cellsVoid = true) (p : Nat) :
    s.hostCell p = Config.failedCell s.decodes p := by
  simp [State.hostCell, h]

/-- After a reset the cells mean something only if it was taken in DONE, or in IDLE with cells that did (log 15). -/
theorem State.cellsVoid_hardReset (s : State) : s.hardReset.cellsVoid = s.voidAfterReset := rfl

/-! ### The precondition of a chunk -/

/-- When a chunk's meaning answers a next state (40_chunk_cycle.md R70). -/
theorem atChunk_next {s t u : State} : atChunk s t = .next u ↔ s.fsm = .op ∧ s.pos < s.total ∧ u = t := by
  unfold atChunk
  split
  · next hf =>
    split
    · next hp => exact ⟨fun h => ⟨hf, hp, by injection h with h; exact h.symm⟩, fun h => by rw [h.2.2]⟩
    · next hp => exact ⟨fun h => (by cases h), fun h => absurd h.2.1 hp⟩
  · next hf => exact ⟨fun h => (by cases h), fun h => absurd h.1 hf⟩

/-- At a chunk boundary with a cell left, a chunk's meaning answers a next state (40_chunk_cycle.md R70). -/
theorem atChunk_of {s t : State} (h : s.fsm = .op) (hp : s.pos < s.total) : atChunk s t = .next t := by
  simp [atChunk, h, hp]

/-- The emit-and-commit tail after the bytes and latches of a chunk (40_chunk_cycle.md R70). -/
theorem State.emit_emitsOne {s u : State} (n : Nat) (px : Pixel) (upd : Bool)
    (hu : { s with sp := s.sp + n, latches := u.latches } = u) (he : u.latches.endcnt = s.latches.endcnt) :
    EmitsOne n px upd s (u.emit px upd) where
  prev := by simp
  cache i := by rw [State.cacheRead_emit, ← hu]; rfl
  cell := by
    have hp : u.pos = s.pos := by rw [← hu]
    rw [← hp]
    have hf := nextFsm_phase (u.pos + 1#64) u.total
    exact State.hostCell_of_read
      (State.cellsVoid_eq_false (by rw [State.phase, State.emit_fsm]; exact hf.1)
        (by rw [State.phase, State.emit_fsm]; exact hf.2.1))
      (by rw [State.emit_buffer, Memory.read_write_same])
  buffer p := by rw [State.emit_buffer, Memory.read_write, ← hu]
  pos := by rw [State.emit_pos, ← hu]
  sp := by rw [State.emit_sp, ← hu]
  phase := by rw [State.emit_fsm, ← hu]; rfl
  width := by rw [State.emit_width, ← hu]
  height := by rw [State.emit_height, ← hu]
  total := by rw [State.emit_total, ← hu]
  cause := by rw [State.emit_cause, ← hu]
  endcnt := by rw [State.emit_latches]; exact he
  stream := by rw [State.emit_stream, ← hu]
  bufferVoid := by rw [State.emit_bufferVoid, ← hu]
  host := by rw [State.emit_host, ← hu]
  decodes := by rw [State.emit_decodes, ← hu]

/-! ### START -/

/-- When START answers a next state, and which (45_end_marker.md R130). -/
theorem startDecode_next {w h : BitVec 32} {str : List Byte} {s t : State} :
    startDecode w h str s = .next t ↔
      s.fsm.resting = true ∧ w ≠ 0#32 ∧ h ≠ 0#32 ∧ t = s.startLoad w h str := by
  unfold startDecode
  split
  · next hr =>
    split
    · next e => exact ⟨fun k => (by cases k), fun k => absurd e (by simp [k.2.1, k.2.2.1])⟩
    · next e =>
      rw [not_or] at e
      exact ⟨fun k => ⟨hr, e.1, e.2, by injection k with k; exact k.symm⟩, fun k => by rw [k.2.2.2]⟩
  · next hr => exact ⟨fun k => (by cases k), fun k => absurd k.1 hr⟩

/-- The product of two nonzero dimensions is nonzero and does not overflow (10_state.md R15). -/
theorem total_toNat (w h : BitVec 32) : (w.setWidth 64 * h.setWidth 64).toNat = w.toNat * h.toNat := by
  have hw := w.isLt
  have hh := h.isLt
  have : w.toNat * h.toNat < 2 ^ 64 := by
    calc w.toNat * h.toNat < 2 ^ 32 * 2 ^ 32 := Nat.mul_lt_mul'' hw hh
      _ = 2 ^ 64 := by norm_num
  rw [BitVec.toNat_mul, BitVec.toNat_setWidth, BitVec.toNat_setWidth,
    Nat.mod_eq_of_lt (show w.toNat < 2 ^ 64 by omega), Nat.mod_eq_of_lt (show h.toNat < 2 ^ 64 by omega),
    Nat.mod_eq_of_lt this]

/-! ### RUN -/

/-- What a RUN does once its control byte is consumed (44_run_chunk.md R120). -/
theorem State.runChunk_cases (fn : BitVec 6) (s : State) :
    (61 < fn.toNat ∧ s.runChunk fn = s.raise .reservedRun) ∨
    (fn.toNat ≤ 61 ∧ s.cellsLeft < runLength fn ∧ s.runChunk fn = s.raise .runOverflow) ∨
    (fn.toNat ≤ 61 ∧ runLength fn ≤ s.cellsLeft ∧
      s.runChunk fn = ((s.runWrite (runLength fn)).latchRun 0#6).advance (runLength fn)) := by
  unfold State.runChunk
  have hl := fn.isLt
  split
  · next h => left; refine ⟨?_, rfl⟩; rcases h with h | h <;> subst h <;> decide
  · next h =>
    have : fn.toNat ≤ 61 := by
      by_contra c
      apply h
      rcases (by omega : fn.toNat = 62 ∨ fn.toNat = 63) with e | e
      · exact .inl (BitVec.eq_of_toNat_eq e)
      · exact .inr (BitVec.eq_of_toNat_eq e)
    split
    · next c => exact .inr (.inl ⟨this, c, rfl⟩)
    · next c => exact .inr (.inr ⟨this, by omega, rfl⟩)

/-! ### END -/

/-- What one end-marker byte does (45_end_marker.md R131). -/
theorem State.endByte_cases (b : Byte) (s : State) :
    (b = expectedEndByte s.latches.endcnt ∧ s.latches.endcnt + 1#4 = 8#4 ∧
      s.endByte b = { s.consume 1 with latches := { s.latches with endcnt := 8#4 }, fsm := .done }) ∨
    (b = expectedEndByte s.latches.endcnt ∧ s.latches.endcnt + 1#4 ≠ 8#4 ∧
      s.endByte b =
        { s.consume 1 with latches := { s.latches with endcnt := s.latches.endcnt + 1#4 }, fsm := .endMark }) ∨
    (b ≠ expectedEndByte s.latches.endcnt ∧ s.endByte b = (s.consume 1).raise .badEndMarker) := by
  unfold State.endByte
  split
  · next h =>
    by_cases e : s.latches.endcnt + 1#4 = 8#4
    · left; exact ⟨h, e, by rw [if_pos e, e]⟩
    · right; left; exact ⟨h, e, by rw [if_neg e]⟩
  · next h => exact .inr (.inr ⟨h, rfl⟩)

/-- An end-marker byte writes neither pixel nor register (45_end_marker.md R131 corner case 4). -/
theorem State.endByte_frame (b : Byte) (s : State) : EndFrame s (s.endByte b) := by
  rcases State.endByte_cases b s with ⟨-, -, h⟩ | ⟨-, -, h⟩ | ⟨-, h⟩ <;> rw [h] <;> constructor <;> rfl

theorem EndFrame.trans {s t u : State} (h : EndFrame s t) (k : EndFrame t u) : EndFrame s u where
  prev := k.prev.trans h.prev
  cache := k.cache.trans h.cache
  buffer := k.buffer.trans h.buffer
  pos := k.pos.trans h.pos
  width := k.width.trans h.width
  height := k.height.trans h.height
  total := k.total.trans h.total
  stream := k.stream.trans h.stream
  bufferVoid := k.bufferVoid.trans h.bufferVoid
  host := k.host.trans h.host
  decodes := k.decodes.trans h.decodes

/-- END writes neither pixel nor register (45_end_marker.md R131 corner case 4). -/
theorem State.endBytes_frame (n : Nat) (s : State) : EndFrame s (s.endBytes n) := by
  induction n generalizing s with
  | zero => constructor <;> rfl
  | succ k ih =>
    simp only [State.endBytes]
    split
    · constructor <;> rfl
    · next b _ =>
      split
      · exact (s.endByte_frame b).trans (ih _)
      · exact s.endByte_frame b

/-- When END answers a next state, and which (45_end_marker.md R131). -/
theorem execEndMarker_next {s t : State} : execEndMarker s = .next t ↔ s.fsm = .endMark ∧ t = s.endBytes 8 := by
  unfold execEndMarker
  split
  · next hf => exact ⟨fun h => ⟨hf, by injection h with h; exact h.symm⟩, fun h => by rw [h.2]⟩
  · next hf => exact ⟨fun h => (by cases h), fun h => absurd h.1 hf⟩

/-- Whatever holds of a state in S_END and is kept by every end-marker byte and by a short read holds after END. -/
theorem State.endBytes_keeps {P : State → Prop} (hb : ∀ s b, P s → s.fsm = .endMark → s.nextByte? = some b → P (s.endByte b))
    (he : ∀ s, P s → s.fsm = .endMark → s.nextByte? = none → P (s.raise .shortRead)) (n : Nat) (s : State)
    (h : P s) (hf : s.fsm = .endMark) : P (s.endBytes n) := by
  induction n generalizing s with
  | zero => exact h
  | succ k ih =>
    simp only [State.endBytes]
    split
    · next e => exact he s h hf e
    · next b e =>
      split
      · next f => exact ih _ (hb s b h hf e) f
      · exact hb s b h hf e

/-! ### Events -/

theorem EndFrame.refl (s : State) : EndFrame s s := by constructor <;> rfl

/-- The op-code parser writes neither pixel nor register (47_fsm_refinement.md R155). -/
theorem State.opByte_frame (b : Byte) (s : State) : EndFrame s (s.opByte b) := by
  unfold State.opByte
  split
  case h_6 => split
              · constructor <;> rfl
              · split <;> constructor <;> rfl
  all_goals constructor <;> rfl

/-- A byte event writes neither pixel nor register: only the latches, `sp`, the phase and `cause` (47_fsm_refinement.md
R155 to R159). -/
theorem State.byteEvent_frame (b : Byte) (s : State) : EndFrame s (s.byteEvent b) := by
  unfold State.byteEvent
  split
  case h_2 => exact EndFrame.trans (by constructor <;> rfl) (State.opByte_frame b (s.consume 1))
  case h_5 => unfold State.litBByte; split <;> constructor <;> rfl
  case h_10 => exact s.endByte_frame b
  all_goals constructor <;> rfl

/-- A byte event consumes one byte (47_fsm_refinement.md R151). -/
theorem State.byteEvent_sp (b : Byte) (s : State) (h : s.fsm.inReady = true) : (s.byteEvent b).sp = s.sp + 1 := by
  unfold State.byteEvent
  split <;> rename_i hf <;> rw [hf] at h
  case h_2 =>
    unfold State.opByte
    split
    case h_6 => split
                · rfl
                · split <;> rfl
    all_goals rfl
  case h_5 => unfold State.litBByte; split <;> rfl
  case h_10 => rcases State.endByte_cases b s with ⟨-, -, e⟩ | ⟨-, -, e⟩ | ⟨-, e⟩ <;> rw [e] <;> rfl
  all_goals first | rfl | cases h

theorem ifCellLeft_next {s t u : State} : ifCellLeft s t = .next u ↔ s.pos < s.total ∧ u = t := by
  unfold ifCellLeft
  split
  · next hp => exact ⟨fun h => ⟨hp, by injection h with h; exact h.symm⟩, fun h => by rw [h.2]⟩
  · next hp => exact ⟨fun h => (by cases h), fun h => absurd h.1 hp⟩

/-- What a pixel event can do (47_fsm_refinement.md R157, R158). -/
theorem State.pixelEvent_next {s t : State} (h : s.pixelEvent = .next t) :
    (s.fsm = .emit ∧ s.pos < s.total ∧ t = s.commitPending) ∨
    (s.fsm = .run ∧ s.pos < s.total ∧ t = s.runPixel) ∨ (s.fsm.outValid = false ∧ t = s) := by
  unfold State.pixelEvent at h
  cases hf : s.fsm <;> simp only [hf] at h
  case emit => left; exact ⟨rfl, ifCellLeft_next.1 h⟩
  case run => right; left; exact ⟨rfl, ifCellLeft_next.1 h⟩
  all_goals (right; right; injection h with h; exact ⟨rfl, h.symm⟩)

/-- What an event can do, with a host that answers at once (47_fsm_refinement.md R151). -/
theorem State.event_next {s t : State} (h : s.event = .next t) :
    (∃ b, s.fsm.inReady = true ∧ s.nextByte? = some b ∧ t = s.byteEvent b) ∨
    (s.fsm.inReady = true ∧ s.nextByte? = none ∧ t = s.raise .shortRead) ∨ s.pixelEvent = .next t := by
  unfold State.event at h
  split at h
  · next hr =>
    split at h
    · next b hb => left; injection h with h; exact ⟨b, hr, hb, h.symm⟩
    · next hb => right; left; injection h with h; exact ⟨hr, hb, h.symm⟩
  · exact .inr (.inr h)

/-- A cycle that offers no byte alters no stream. -/
@[simp] theorem State.altersStream_of_not_valid {i : Inputs} (h : i.inValid = false) (s : State) :
    s.altersStream i = false := by
  simp [State.altersStream, h]

/-- With no decode running there is no stream to alter. -/
@[simp] theorem State.altersStream_of_resting (i : Inputs) {s : State} (h : s.fsm.resting = true) :
    s.altersStream i = false := by
  simp [State.altersStream, h]

/-- Offering the stream's next byte alters nothing. -/
theorem State.altersStream_of_next {i : Inputs} {s : State} (h : s.nextByte? = some i.inData) :
    s.altersStream i = false := by
  simp [State.altersStream, h]

/-- Without `in_eos` the stream stays. -/
@[simp] theorem State.takeEos_of_not_eos {i : Inputs} (h : i.inEos = false) (s : State) : s.takeEos i = s := by
  simp [State.takeEos, h]

/-- With no decode running the stream stays. -/
@[simp] theorem State.takeEos_of_resting (i : Inputs) {s : State} (h : s.fsm.resting = true) : s.takeEos i = s := by
  simp [State.takeEos, h]

/-- A byte offered in a byte-consuming state is the stream's next, unless the stream is altered (47_fsm_refinement.md
R150). -/
theorem State.nextByte_of_offered {i : Inputs} {s : State} (h : s.altersStream i = false) (hr : s.fsm.resting = false)
    (hv : i.inValid = true) : s.nextByte? = some i.inData := by
  simpa [State.altersStream, hr, hv] using h

/-- No state takes bytes while no decode runs (47_fsm_refinement.md R153). -/
theorem Fsm.resting_of_inReady {f : Fsm} (h : f.inReady = true) : f.resting = false := by
  cases f <;> first | rfl | cases h

/-- What the handshake of a cycle can do (47_fsm_refinement.md R151, R163). -/
theorem State.handshake_next {i : Inputs} {s t : State} (h : s.handshake i = .next t) :
    (∃ b, s.fsm.inReady = true ∧ s.nextByte? = some b ∧ t = s.byteEvent b) ∨
    (s.fsm.inReady = true ∧ i.inEos = true ∧ t = s.raise .shortRead) ∨ s.pixelEvent = .next t ∨ t = s := by
  unfold State.handshake at h
  split at h
  · cases h
  · next ha =>
    split at h
    · next hr =>
      split at h
      · next hv =>
        left; injection h with h
        exact ⟨_, hr, State.nextByte_of_offered (by simpa using ha) (Fsm.resting_of_inReady hr) hv, h.symm⟩
      · split at h
        · next he => right; left; injection h with h; exact ⟨hr, he, h.symm⟩
        · injection h with h; exact .inr (.inr (.inr h.symm))
    · split at h
      · split at h
        · exact .inr (.inr (.inl h))
        · injection h with h; exact .inr (.inr (.inr h.symm))
      · injection h with h; exact .inr (.inr (.inr h.symm))

end Sys2Proof.Machine
end

