-- ==== Sys2Proof/Laws/PerInstr.lean ====
section
/-! SUPPORT. Statements about every instruction as the encoding has it, one lemma per constructor. -/

namespace Sys2Proof.Laws.EncodedLength

/-- The encoder writes as many bytes as the instruction is long, one of 1, 2, 4, 5 for a chunk and 8 for the end
marker (30_encoding.md R52, R59). -/
def Statement (i : Instr) : Prop :=
  (encode i).length = i.length ∧
    match i.readAs with
    | .chunk => i.length ∈ [1, 2, 4, 5]
    | .endMarker => i.length = 8

theorem rgb (r g b : Byte) : Statement (.rgb r g b) := by simp [Statement, encode, Instr.length, Instr.readAs]
theorem rgba (r g b a : Byte) : Statement (.rgba r g b a) := by simp [Statement, encode, Instr.length, Instr.readAs]
theorem index (idx : BitVec 6) : Statement (.index idx) := by simp [Statement, encode, Instr.length, Instr.readAs]
theorem diff (fr fg fb : BitVec 2) : Statement (.diff fr fg fb) := by
  simp [Statement, encode, Instr.length, Instr.readAs]
theorem luma (fdg : BitVec 6) (fdrg fdbg : BitVec 4) : Statement (.luma fdg fdrg fdbg) := by
  simp [Statement, encode, Instr.length, Instr.readAs]
theorem run (fn : BitVec 6) : Statement (.run fn) := by simp [Statement, encode, Instr.length, Instr.readAs]
theorem endMarker : Statement .endMarker := by
  simp [Statement, encode, Instr.length, Instr.readAs, Config.endMarker]

end Sys2Proof.Laws.EncodedLength
end

