-- ==== Sys2Proof/Laws/Step.lean ====
section
/-! SUPPORT. What a step can do, said once, and the principle that carries a property over every step. -/

namespace Sys2Proof.Machine

/-- A run of one more step. -/
theorem run_next {s t : State} (h : step s = .next t) (n : Nat) : core.run (n + 1) s = core.run n t := by
  simp only [Host.Core.run]
  rw [show core.step s = .next t from h]

/-- With no move of the host pending, a step is a step of the block by itself. -/
theorem step_of_host_nil {s : State} (h : s.host = []) : step s = s.blockStep := by
  unfold step State.moveOrStep; rw [h]

/-- A chunk step either executes the decoded chunk or is a short read (40_chunk_cycle.md R70, R71). -/
theorem State.stepChunk_next {s t : State} (h : s.stepChunk = .next t) :
    (∃ i rest, decodeChunk s.bytesLeft = .ok (i, rest) ∧ exec i s = .next t) ∨
    (∃ e, decodeChunk s.bytesLeft = .error e ∧ t = s.raiseShortRead) := by
  unfold State.stepChunk at h
  simp only [decode] at h
  split at h
  · next i rest hd => exact .inl ⟨i, rest, hd, h⟩
  · next e hd => injection h with h; exact .inr ⟨e, hd, h.symm⟩

/-- What a step of the block by itself can do. -/
theorem State.blockStep_next {s t : State} (h : s.blockStep = .next t) :
    (s.fsm.resting = true ∧ t = s) ∨ (s.fsm = .op ∧ s.stepChunk = .next t) ∨
    (s.fsm = .endMark ∧ t = s.endBytes 8) ∨ s.event = .next t := by
  unfold State.blockStep at h
  cases hf : s.fsm <;> simp only [hf] at h
  case idle => injection h with h; exact .inl ⟨rfl, h.symm⟩
  case done => injection h with h; exact .inl ⟨rfl, h.symm⟩
  case fail => injection h with h; exact .inl ⟨rfl, h.symm⟩
  case op => exact .inr (.inl ⟨rfl, h⟩)
  case endMark => exact .inr (.inr (.inl ⟨rfl, (execEndMarker_next.1 h).2⟩))
  all_goals exact .inr (.inr (.inr h))

/-- `in_eos` either ends the stream here or, with no decode running, changes nothing (60_exceptions.md R181). -/
theorem State.takeEos_cases (i : Inputs) (s : State) : s.takeEos i = s.endStream 0 ∨ s.takeEos i = s := by
  unfold State.takeEos
  split
  · exact .inl rfl
  · exact .inr rfl

/-- What a handshake cycle can do (47_fsm_refinement.md R151, R160). -/
theorem State.cycle_next {i : Inputs} {s t : State} (h : s.cycle i = .next t) :
    t = s.hardReset ∨ startDecode i.cfgWidth i.cfgHeight i.startStream s = .next t ∨
    (s.endStream 0).handshake i = .next t ∨ s.handshake i = .next t := by
  unfold State.cycle at h
  split at h
  · injection h with h; exact .inl h.symm
  · split at h
    · cases h
    · split at h
      · exact .inr (.inl h)
      · rcases s.takeEos_cases i with e | e <;> rw [e] at h
        · exact .inr (.inr (.inl h))
        · exact .inr (.inr (.inr h))

/-- The parts of which every step is made, for a property `P` that each of them keeps. -/
structure KeptByParts (P : State → Prop) : Prop where
  host : ∀ s moves, P s → P { s with host := moves }
  start : ∀ s w h str, P s → s.fsm.resting = true → w ≠ 0#32 → h ≠ 0#32 → P (s.startLoad w h str)
  reset : ∀ s, P s → P s.hardReset
  endStream : ∀ s k, P s → P (s.endStream k)
  chunk : ∀ s t i rest, P s → s.fsm = .op → decodeChunk s.bytesLeft = .ok (i, rest) → exec i s = .next t → P t
  shortChunk : ∀ s, P s → s.fsm = .op → P s.raiseShortRead
  byte : ∀ s b, P s → s.fsm.inReady = true → s.nextByte? = some b → P (s.byteEvent b)
  shortByte : ∀ s, P s → s.fsm.inReady = true → P (s.raise .shortRead)
  pixel : ∀ s, P s → s.fsm = .emit → s.pos < s.total → P s.commitPending
  runPixel : ∀ s, P s → s.fsm = .run → s.pos < s.total → P s.runPixel

namespace KeptByParts

variable {P : State → Prop}

theorem pixelEvent (k : KeptByParts P) {s t : State} (hs : P s) (h : s.pixelEvent = .next t) : P t := by
  rcases State.pixelEvent_next h with ⟨hf, hp, rfl⟩ | ⟨hf, hp, rfl⟩ | ⟨-, rfl⟩
  · exact k.pixel s hs hf hp
  · exact k.runPixel s hs hf hp
  · exact hs

theorem event (k : KeptByParts P) {s t : State} (hs : P s) (h : s.event = .next t) : P t := by
  rcases State.event_next h with ⟨b, hr, hb, rfl⟩ | ⟨hr, -, rfl⟩ | h
  · exact k.byte s b hs hr hb
  · exact k.shortByte s hs hr
  · exact k.pixelEvent hs h

theorem handshake (k : KeptByParts P) {i : Inputs} {s t : State} (hs : P s) (h : s.handshake i = .next t) : P t := by
  rcases State.handshake_next h with ⟨b, hr, hb, rfl⟩ | ⟨hr, -, rfl⟩ | h | rfl
  · exact k.byte s b hs hr hb
  · exact k.shortByte s hs hr
  · exact k.pixelEvent hs h
  · exact hs

theorem endBytes (k : KeptByParts P) (n : Nat) {s : State} (hs : P s) (hf : s.fsm = .endMark) : P (s.endBytes n) := by
  refine State.endBytes_keeps (fun u b hu hf hb => ?_) (fun u hu hf _ => ?_) n s hs hf
  · have := k.byte u b hu (by rw [hf]; rfl) hb
    simpa only [State.byteEvent, hf] using this
  · exact k.shortByte u hu (by rw [hf]; rfl)

theorem blockStep (k : KeptByParts P) {s t : State} (hs : P s) (h : s.blockStep = .next t) : P t := by
  rcases State.blockStep_next h with ⟨-, rfl⟩ | ⟨hf, h⟩ | ⟨hf, rfl⟩ | h
  · exact hs
  · rcases State.stepChunk_next h with ⟨i, rest, hd, h⟩ | ⟨e, -, rfl⟩
    · exact k.chunk s t i rest hs hf hd h
    · exact k.shortChunk s hs hf
  · exact k.endBytes 8 hs hf
  · exact k.event hs h

theorem startDecode (k : KeptByParts P) {w h : BitVec 32} {str : List Byte} {s t : State} (hs : P s)
    (e : startDecode w h str s = .next t) : P t := by
  obtain ⟨hr, hw, hh, rfl⟩ := startDecode_next.1 e
  exact k.start s w h str hs hr hw hh

theorem hostMove (k : KeptByParts P) {m : HostMove} {s t : State} (hs : P s) (h : s.hostMove m = .next t) : P t := by
  cases m with
  | start w hh str => exact k.startDecode hs h
  | reset => injection h with h; subst h; exact k.reset s hs
  | endStream n => injection h with h; subst h; exact k.endStream s n hs
  | cycle i =>
    rcases State.cycle_next h with rfl | h | h | h
    · exact k.reset s hs
    · exact k.startDecode hs h
    · exact k.handshake (k.endStream s 0 hs) h
    · exact k.handshake hs h
  | chunk => exact k.blockStep hs h

/-- What every part keeps, every step keeps. -/
theorem step (k : KeptByParts P) {s t : State} (hs : P s) (h : step s = .next t) : P t := by
  unfold Machine.step State.moveOrStep at h
  split at h
  · exact k.blockStep hs h
  · exact k.hostMove (k.host s _ hs) h

end KeptByParts

end Sys2Proof.Machine
end

