-- ==== Sys2Proof/Tests/Slice0.lean ====
section
/-! SUPPORT. The model's own tests: well-formedness, words decoded bit by bit, one step of each instruction on the
vectors of 95_test_vectors.md, and a witness for the hypotheses of every obligation. -/

namespace Sys2Proof.Machine.Tests

/-- A decode just started, after `State.reset`. -/
def started (w h : BitVec 32) (stream : List Byte) : State := State.reset.startLoad w h stream

/-- A decode just started whose last pixel is `p`. -/
def startedWith (p : Pixel) (w h : BitVec 32) (stream : List Byte) : State := (started w h stream).setPrev p

/-- A decode of `1 × 1` whose one cell is written: the end marker is due. -/
def ending (stream : List Byte) : State :=
  { (started 1#32 1#32 stream).pixWrite Config.prevInit with pos := 1#64, fsm := .endMark }

/-- A decode that has ended. -/
def endedIn (f : Fsm) (c : Cause) : State := { ending [] with fsm := f, cause := c, latches.endcnt := 8#4 }

/-- The next state, if there is one. -/
def nextOf (o : Host.Outcome State Fault Refusal) : State :=
  match o with
  | .next t => t
  | .fault _ => State.reset
  | .refused _ => State.reset

/-- The outcome is a next state with the property `p`. -/
def nextWith (o : Host.Outcome State Fault Refusal) (p : State → Bool) : Bool :=
  match o with
  | .next t => p t
  | .fault _ => false
  | .refused _ => false

/-- The outcome is this refusal. -/
def refusedWith (o : Host.Outcome State Fault Refusal) (r : Refusal) : Bool :=
  match o with
  | .next _ => false
  | .fault _ => false
  | .refused r' => decide (r' = r)

/-- The outcome is this fault. -/
def faultedWith (o : Host.Outcome State Fault Refusal) (f : Fault) : Bool :=
  match o with
  | .next _ => false
  | .fault f' => decide (f' = f)
  | .refused _ => false

/-- What a decoder answers, if it accepts. -/
def accepted {α : Type} (e : Except Reject α) : Option α :=
  match e with
  | .ok a => some a
  | .error _ => none

/-- The eight bytes of a right marker. -/
def marker : List Byte := [0#8, 0#8, 0#8, 0#8, 0#8, 0#8, 0#8, 1#8]

/-! ### Well-formedness: the one check there is refuses fields 62 and 63 of RUN (30_encoding.md R56) -/

theorem test_illformed_run62 : (Instr.run 62#6).wellFormed = false := by decide
theorem test_illformed_run63 : (Instr.run 63#6).wellFormed = false := by decide
theorem test_wellformed_run61 : (Instr.run 61#6).wellFormed = true := by decide
theorem test_wellformed_index63 : (Instr.index 63#6).wellFormed = true := by decide

/-! ### Words written out from the formats of 30_encoding.md R51 -/

/-- FE, then red, green, blue. -/
theorem test_decode_rgb : accepted (decodeChunk [0b11111110#8, 0b00001010#8, 0b00010100#8, 0b00011110#8, 9#8]) =
    some (.rgb 10#8 20#8 30#8, [9#8]) := by decide
/-- FF, then red, green, blue, alpha. -/
theorem test_decode_rgba : accepted (decodeChunk [0b11111111#8, 1#8, 2#8, 3#8, 4#8, 5#8]) =
    some (.rgba 1#8 2#8 3#8 4#8, [5#8]) := by decide
/-- 00 then index 110101. -/
theorem test_decode_index : accepted (decodeChunk [0b00110101#8]) = some (.index 53#6, []) := by decide
/-- 01, red 00, green 11, blue 10: the example 4E of 95_test_vectors.md 2.5. -/
theorem test_decode_diff : accepted (decodeChunk [0b01001110#8]) = some (.diff 0#2 3#2 2#2, []) := by decide
/-- 10, green 011101; red 1010, blue 0111: the bytes 9D A7 of 95_test_vectors.md P1. -/
theorem test_decode_luma : accepted (decodeChunk [0b10011101#8, 0b10100111#8]) =
    some (.luma 0b011101#6 0b1010#4 0b0111#4, []) := by decide
/-- 11, run field 000100. -/
theorem test_decode_run : accepted (decodeChunk [0b11000100#8]) = some (.run 4#6, []) := by decide
/-- In phase ENDMARK the row is END whatever the bytes are (30_encoding.md R59). -/
theorem test_decode_end : accepted (decode .endMarker (marker ++ [0xAA#8])) = some (.endMarker, [0xAA#8]) := by decide
/-- The same bytes at a chunk boundary are the chunk INDEX 0 (30_encoding.md R58). -/
theorem test_decode_marker_as_chunk : (accepted (decodeChunk marker)).map Prod.fst = some (.index 0#6) := by decide
/-- 95_test_vectors.md 2.2: FD is a run of 62, FE and FF are not runs. -/
theorem test_dispatch_corners : [0x00#8, 0x3F#8, 0x40#8, 0x7F#8, 0x80#8, 0xBF#8, 0xC0#8, 0xFD#8, 0xFE#8, 0xFF#8].map kindOf =
    [.index, .index, .diff, .diff, .luma, .luma, .run, .run, .rgb, .rgba] := by decide
theorem test_truncated_rgb : accepted (decodeChunk [0xFE#8, 1#8, 2#8]) = none := by decide

/-- A table word: bits 7..0 are the control byte (95_test_vectors.md S4). -/
theorem test_table_rgb : decodeTableWord 32 0x1E140AFE = some (.rgb 10#8 20#8 30#8) := by decide
theorem test_table_luma : decodeTableWord 16 0xA79D = some (.luma 29#6 10#4 7#4) := by decide
theorem test_table_end : decodeTableWord 64 0x0100000000000000 = some .endMarker := by decide
/-- An END of the table, run as the first instruction after reset, ends in DONE. -/
theorem test_fetch_end : nextWith (step (State.reset.withFetchWord 64 0x0100000000000000))
    (fun t => t.phase = .done && t.sp = 8) = true := by decide
/-- A LUMA of the table, run as the first instruction after reset. -/
theorem test_fetch_luma : nextWith (step (State.reset.withFetchWord 16 0x88A0))
    (fun t => t.prev = ⟨0#8, 0#8, 0#8, 255#8⟩ && t.sp = 2) = true := by decide

/-! ### One step of each instruction (95_test_vectors.md) -/

/-- S4, step 1. -/
theorem test_rgb : nextWith (step (started 2#32 1#32 [0xFE#8, 0x0A#8, 0x14#8, 0x1E#8, 0x09#8]))
    (fun t => t.prev = ⟨10#8, 20#8, 30#8, 255#8⟩ && t.cacheRead 9#6 = ⟨10#8, 20#8, 30#8, 255#8⟩ && t.sp = 4 &&
      t.pos = 1#64 && Memory.read t.buffer 0 = some ⟨10#8, 20#8, 30#8, 255#8⟩) = true := by decide
/-- 2.3: the alpha of the previous pixel is carried, and payload bytes FE and FF are data. -/
theorem test_rgb_alpha : nextWith (step (startedWith ⟨1#8, 2#8, 3#8, 4#8⟩ 2#32 1#32 [0xFE#8, 0xFE#8, 0xFF#8, 0x00#8]))
    (fun t => t.prev = ⟨254#8, 255#8, 0#8, 4#8⟩ && t.cacheRead 33#6 = t.prev) = true := by decide
/-- 2.3. -/
theorem test_rgba : nextWith (step (started 1#32 1#32 [0xFF#8, 1#8, 2#8, 3#8, 4#8]))
    (fun t => t.prev = ⟨1#8, 2#8, 3#8, 4#8⟩ && t.cacheRead 14#6 = t.prev && t.sp = 5 && t.phase = .endmark) = true := by
  decide
/-- 2.3: SHORT_READ with `sp` = 4. -/
theorem test_rgba_short : nextWith (step (started 1#32 1#32 [0xFF#8, 1#8, 2#8, 3#8]))
    (fun t => t.phase = .failed && t.cause = .shortRead && t.sp = 4 && t.buffer = []) = true := by decide
/-- 2.4: the pre-seeded slot. -/
theorem test_index_seed : nextWith (step (startedWith ⟨10#8, 20#8, 30#8, 255#8⟩ 3#32 1#32 [0x35#8]))
    (fun t => t.prev = ⟨0#8, 0#8, 0#8, 255#8⟩ && t.sp = 1) = true := by decide
/-- 2.4: INDEX 5 emits the zero pixel and does not write slot 0, which is that pixel's hash. -/
theorem test_index_no_cache_write :
    nextWith (step ((started 3#32 1#32 [0x05#8]).cacheWrite ⟨64#8, 0#8, 0#8, 0#8⟩))
      (fun t => t.prev = Pixel.zero && t.cacheRead 0#6 = ⟨64#8, 0#8, 0#8, 0#8⟩) = true := by decide
/-- S6, step 2. -/
theorem test_diff_wrap_down : nextWith (step (startedWith ⟨1#8, 0#8, 0#8, 255#8⟩ 2#32 1#32 [0x4A#8]))
    (fun t => t.prev = ⟨255#8, 0#8, 0#8, 255#8⟩ && t.cacheRead 50#6 = t.prev && t.sp = 1) = true := by decide
/-- 2.5: 47 is (-2, -1, +1). -/
theorem test_diff_wrap_up : nextWith (step (startedWith ⟨0#8, 128#8, 255#8, 7#8⟩ 2#32 1#32 [0x47#8]))
    (fun t => t.prev = ⟨254#8, 127#8, 0#8, 7#8⟩ && t.cacheRead 2#6 = t.prev) = true := by decide
/-- 2.6: A5 3C from (100,150,200,255). -/
theorem test_luma : nextWith (step (startedWith ⟨100#8, 150#8, 200#8, 255#8⟩ 2#32 1#32 [0xA5#8, 0x3C#8]))
    (fun t => t.prev = ⟨100#8, 155#8, 209#8, 255#8⟩ && t.cacheRead 31#6 = t.prev && t.sp = 2) = true := by decide
/-- 2.6: BF 00 from (250,5,128,9). -/
theorem test_luma_wrap : nextWith (step (startedWith ⟨250#8, 5#8, 128#8, 9#8⟩ 2#32 1#32 [0xBF#8, 0x00#8]))
    (fun t => t.prev = ⟨17#8, 36#8, 151#8, 9#8⟩ && t.cacheRead 43#6 = t.prev) = true := by decide
/-- S5, step 1. -/
theorem test_run : nextWith (step (started 3#32 2#32 [0xC4#8, 0x35#8]))
    (fun t => t.buffer.map Prod.fst = [0, 1, 2, 3, 4] && Memory.read t.buffer 4 = some ⟨0#8, 0#8, 0#8, 255#8⟩ &&
      t.pos = 5#64 && t.sp = 1 && t.phase = .chunk && t.cache = cacheInitial) = true := by decide
/-- 2.7: C1 on a 1 × 1 image. -/
theorem test_run_overflow : nextWith (step (started 1#32 1#32 (0xC1#8 :: marker)))
    (fun t => t.phase = .failed && t.cause = .runOverflow && t.sp = 1 && t.buffer = []) = true := by decide
/-- 2.8: a right marker, with bytes after it. -/
theorem test_end : nextWith (step (ending (marker ++ [0xAA#8, 0xBB#8])))
    (fun t => t.phase = .done && t.cause = .noViolation && t.sp = 8) = true := by decide
/-- S8: seven zero bytes and an eighth. -/
theorem test_end_bad : nextWith (step (ending [0#8, 0#8, 0#8, 0#8, 0#8, 0#8, 0#8, 0#8]))
    (fun t => t.phase = .failed && t.cause = .badEndMarker && t.sp = 8) = true := by decide

/-! ### Reset, START, the event level, the header -/

/-- 2.9: the largest image. -/
theorem test_start_largest : nextWith (startDecode 0xFFFFFFFF#32 0xFFFFFFFF#32 [] State.reset)
    (fun t => t.total = 0xFFFFFFFE00000001#64 && t.phase = .chunk) = true := by decide
/-- 2.9: START(0,5). -/
theorem test_start_zero : refusedWith (startDecode 0#32 5#32 [] State.reset) .startZeroDimension = true := by decide
/-- The trace of section 4, events 1 to 5. -/
theorem test_events_rgb : nextWith ((started 2#32 1#32 [0xFE#8, 0x0A#8, 0x14#8, 0x1E#8, 0x09#8]).events 5)
    (fun t => t.fsm = .op && t.pos = 1#64 && t.sp = 4 && t.latches.litR = 10#8 && t.latches.litB = 30#8 &&
      t.latches.upd && t.cacheRead 9#6 = ⟨10#8, 20#8, 30#8, 255#8⟩) = true := by decide
/-- The end of section 4: `runcnt` after the byte C4 and one pixel. -/
theorem test_events_run : nextWith ((started 3#32 2#32 [0xC4#8]).events 2)
    (fun t => t.fsm = .run && t.latches.runcnt = 4#6 && t.pos = 1#64) = true := by decide
/-- 70_reset_and_hazards.md R194: a byte changed while a pixel waits has no move; the stream's own byte waits. -/
theorem test_altered_while_emitting :
    let s : State := { started 2#32 1#32 [0x35#8, 0x09#8] with fsm := .emit, sp := 1 }
    let i : Inputs := { rst := false, start := false, cfgWidth := 0#32, cfgHeight := 0#32, startStream := [],
                        inValid := true, inData := 0x0A#8, inEos := false, outReady := true }
    refusedWith (s.cycle i) .streamAltered = true ∧
      nextWith (s.cycle { i with inData := 0x09#8 }) (fun t => t.fsm = .op && t.sp = 1 && t.pos = 1#64) = true := by
  decide
/-- 2.1: hashes. -/
theorem test_hash : [(⟨255#8, 0#8, 0#8, 255#8⟩ : Pixel), ⟨0#8, 255#8, 0#8, 255#8⟩, ⟨0#8, 0#8, 255#8, 255#8⟩,
    ⟨1#8, 2#8, 3#8, 4#8⟩, ⟨22#8, 0#8, 0#8, 0#8⟩].map pixelHash = [50#6, 48#6, 46#6, 14#6, 2#6] := by decide

/-- The Header a file parses to. -/
def headerOf (file : List Byte) : Option (Header × List Byte) :=
  match parseHeader file with
  | .ok r => some r
  | .error _ => none

/-- Why a file has no Header. -/
def headerCause (file : List Byte) : Option HeaderCause :=
  match parseHeader file with
  | .ok _ => none
  | .error c => some c

/-- 2.10: big-endian dimensions. -/
theorem test_header : headerOf [0x71#8, 0x6F#8, 0x69#8, 0x66#8, 0#8, 0#8, 1#8, 0#8, 0#8, 1#8, 0#8, 0#8, 3#8, 1#8, 0xC0#8] =
    some (⟨256#32, 65536#32, 3#8, 1#8⟩, [0xC0#8]) := by decide
/-- 2.10: the failing headers. -/
theorem test_header_causes : [headerCause [0x71#8, 0x6F#8, 0x69#8, 0x67#8],
    headerCause [0x71#8, 0x6F#8, 0x69#8, 0x66#8, 0#8, 0#8, 0#8, 0#8, 0#8, 0#8, 0#8, 1#8, 4#8, 0#8],
    headerCause [0x71#8, 0x6F#8, 0x69#8, 0x66#8, 0#8, 0#8, 0#8, 1#8, 0#8, 0#8, 0#8, 1#8, 5#8, 0#8],
    headerCause [0x71#8, 0x6F#8, 0x69#8, 0x66#8, 0#8, 0#8, 0#8, 1#8, 0#8, 0#8, 0#8, 1#8, 4#8, 2#8],
    headerCause [0x71#8, 0x6F#8, 0x69#8, 0x66#8, 0#8, 0#8, 0#8, 1#8]] =
    [some .badMagic, some .zeroDimension, some .badChannels, some .badColorspace, some .shortRead] := by decide

/-- 30_encoding.md R60: a run is written with its length, deltas without bias. -/
theorem test_asm : [assemble (.run 5), assemble (.diff (-2) 1 0), assemble (.luma (-3) 2 (-1)), assemble (.run 63)] =
    [some [0xC4#8], some [0x4E#8], some [0x9D#8, 0xA7#8], none] := by decide
theorem test_asm_text : (disassemble (.luma 29#6 10#4 7#4)).text = "LUMA -3, 2, -1" := by decide

/-! ### Witnesses: concrete states and operands that meet the hypotheses of each obligation -/

/-- A chunk boundary of a `70 × 1` decode at its first cell, these bytes next. -/
def atBoundary (stream : List Byte) : State := started 70#32 1#32 stream

/-- The last cell of a `70 × 1` decode. -/
def atLastCell (stream : List Byte) : State :=
  { started 70#32 1#32 stream with pos := 69#64, buffer := Memory.fill 69 0 Config.prevInit [] }

theorem witness_HardResetLoads :
    ({ atBoundary [] with host := [.reset, .chunk] } : State).host = .reset :: [.chunk] := rfl

theorem witness_ResetAndStartColumns :
    startDecode 3#32 2#32 [0xC4#8] State.reset = .next (started 3#32 2#32 [0xC4#8]) := rfl

theorem witness_StartLoads_accepted :
    State.reset.phase = .idle ∧ (endedIn .done .noViolation).phase = .done ∧ (endedIn .fail .shortRead).phase = .failed ∧
      (1#32 : BitVec 32) ≠ 0#32 ∧ (0xFFFFFFFF#32 : BitVec 32) ≠ 0#32 := by decide
theorem witness_StartLoads_zero :
    State.reset.phase = .idle ∧ ((0#32 : BitVec 32) = 0#32 ∨ (5#32 : BitVec 32) = 0#32) := by decide
theorem witness_StartLoads_running :
    (atBoundary []).phase = .chunk ∧ (ending []).phase = .endmark := by decide

/-- A fresh block and one that has just failed, started alike. -/
theorem witness_StartForgets :
    State.reset.host = [] ∧ (endedIn .fail .shortRead).host = [] ∧
    startDecode 1#32 1#32 (0xC0#8 :: marker) State.reset = .next (started 1#32 1#32 (0xC0#8 :: marker)) ∧
    ∃ t', startDecode 1#32 1#32 (0xC0#8 :: marker) (endedIn .fail .shortRead) = .next t' :=
  ⟨rfl, rfl, rfl, _, rfl⟩

theorem witness_ControlByteMap :
    (0x00#8 : Byte).toNat ≤ 0x3F ∧ (0x3F#8 : Byte).toNat ≤ 0x3F ∧
    (0x40 ≤ (0x40#8 : Byte).toNat ∧ (0x40#8 : Byte).toNat ≤ 0x7F) ∧
    (0x40 ≤ (0x7F#8 : Byte).toNat ∧ (0x7F#8 : Byte).toNat ≤ 0x7F) ∧
    (0x80 ≤ (0x80#8 : Byte).toNat ∧ (0x80#8 : Byte).toNat ≤ 0xBF) ∧
    (0x80 ≤ (0xBF#8 : Byte).toNat ∧ (0xBF#8 : Byte).toNat ≤ 0xBF) ∧
    (0xC0 ≤ (0xC0#8 : Byte).toNat ∧ (0xC0#8 : Byte).toNat ≤ 0xFD) ∧
    (0xC0 ≤ (0xFD#8 : Byte).toNat ∧ (0xFD#8 : Byte).toNat ≤ 0xFD) ∧
    (0xFE#8 : Byte).toNat = 0xFE ∧ (0xFF#8 : Byte).toNat = 0xFF := by decide
theorem witness_ControlByteMap_step :
    (started 1#32 1#32 []).cause ≠ .badOpcode ∧
    step (started 1#32 1#32 []) = .next (nextOf (step (started 1#32 1#32 []))) := ⟨by decide, rfl⟩

theorem witness_DecodeEncode :
    (Instr.run 61#6).wellFormed = true ∧ (Instr.rgba 255#8 0#8 1#8 2#8).wellFormed = true ∧
      Instr.endMarker.wellFormed = true := by decide

theorem witness_EncodeDecode : decodeChunk [0xFD#8, 0x00#8] = .ok (.run 61#6, [0x00#8]) := rfl

/-- Both sides of the equivalence occur: a cut LUMA and a whole one. -/
theorem witness_RejectedOnlyIfShort :
    decodeChunk [0xA5#8] = .error (.truncated .luma) ∧ decodeChunk [0xA5#8, 0x3C#8] = .ok (.luma 37#6 3#4 12#4, []) :=
  ⟨rfl, rfl⟩

/-- A 6-bit accumulator is the narrowest. -/
theorem witness_HashRule : 6 ≤ 6 := by decide

theorem witness_AssembleDisassemble :
    (Instr.run 61#6).wellFormed = true ∧ (62 < 63) ∧ (63 < 64) ∧ ((-3 : Int) < -2) ∧ ((1 : Int) < 2) ∧
      ((-33 : Int) < -32) ∧ ((31 : Int) < 32) ∧ ((-9 : Int) < -8) ∧ ((7 : Int) < 8) ∧ (255 < 256) ∧
      (∀ v ∈ [0, 255], v ≤ 255) ∧ (∃ v ∈ [0, 256], 255 < v) := by decide

theorem witness_RgbRule :
    (atBoundary [0xFE#8, 0x0A#8, 0x14#8, 0x1E#8]).fsm = .op ∧
    (atBoundary [0xFE#8, 0x0A#8, 0x14#8, 0x1E#8]).pos < (atBoundary [0xFE#8, 0x0A#8, 0x14#8, 0x1E#8]).total ∧
    (atBoundary [0xFE#8, 0x0A#8, 0x14#8, 0x1E#8]).host = [] ∧
    (atBoundary [0xFE#8, 0x0A#8, 0x14#8, 0x1E#8]).bytesLeft = 0xFE#8 :: 0x0A#8 :: 0x14#8 :: 0x1E#8 :: [] := by decide
theorem witness_RgbRule_short :
    (atBoundary [0xFE#8, 1#8, 2#8]).fsm = .op ∧ (atBoundary [0xFE#8, 1#8, 2#8]).pos < (atBoundary [0xFE#8, 1#8, 2#8]).total ∧
    (atBoundary [0xFE#8, 1#8, 2#8]).host = [] ∧ (atBoundary [0xFE#8, 1#8, 2#8]).bytesLeft = 0xFE#8 :: [1#8, 2#8] ∧
    [(1#8 : Byte), 2#8].length < 3 := by decide

theorem witness_RgbaRule :
    (atBoundary [0xFF#8, 1#8, 2#8, 3#8, 4#8]).fsm = .op ∧
    (atBoundary [0xFF#8, 1#8, 2#8, 3#8, 4#8]).pos < (atBoundary [0xFF#8, 1#8, 2#8, 3#8, 4#8]).total ∧
    (atBoundary [0xFF#8, 1#8, 2#8, 3#8, 4#8]).host = [] ∧
    (atBoundary [0xFF#8, 1#8, 2#8, 3#8, 4#8]).bytesLeft = 0xFF#8 :: 1#8 :: 2#8 :: 3#8 :: 4#8 :: [] := by decide
theorem witness_RgbaRule_short :
    (atBoundary [0xFF#8, 1#8, 2#8, 3#8]).fsm = .op ∧
    (atBoundary [0xFF#8, 1#8, 2#8, 3#8]).pos < (atBoundary [0xFF#8, 1#8, 2#8, 3#8]).total ∧
    (atBoundary [0xFF#8, 1#8, 2#8, 3#8]).host = [] ∧
    (atBoundary [0xFF#8, 1#8, 2#8, 3#8]).bytesLeft = 0xFF#8 :: [1#8, 2#8, 3#8] ∧
    [(1#8 : Byte), 2#8, 3#8].length < 4 := by decide

theorem witness_IndexRule :
    (atBoundary [0x3F#8]).fsm = .op ∧ (atBoundary [0x3F#8]).pos < (atBoundary [0x3F#8]).total ∧
    (atBoundary [0x3F#8]).host = [] ∧ (atBoundary [0x3F#8]).bytesLeft = (0b00#2 ++ 63#6 : Byte) :: [] ∧
    (atBoundary [0x3F#8]).cache = cacheInitial := by decide

theorem witness_DiffRule :
    (atBoundary [0x4E#8]).fsm = .op ∧ (atBoundary [0x4E#8]).pos < (atBoundary [0x4E#8]).total ∧
    (atBoundary [0x4E#8]).host = [] ∧
    (atBoundary [0x4E#8]).bytesLeft = (0b01#2 ++ 0#2 ++ 3#2 ++ 2#2 : Byte) :: [] := by decide

theorem witness_LumaRule :
    (atBoundary [0xBF#8, 0x00#8]).fsm = .op ∧ (atBoundary [0xBF#8, 0x00#8]).pos < (atBoundary [0xBF#8, 0x00#8]).total ∧
    (atBoundary [0xBF#8, 0x00#8]).host = [] ∧
    (atBoundary [0xBF#8, 0x00#8]).bytesLeft = (0b10#2 ++ 63#6 : Byte) :: (0#4 ++ 0#4 : Byte) :: [] := by decide
theorem witness_LumaRule_short :
    (atBoundary [0xBF#8]).fsm = .op ∧ (atBoundary [0xBF#8]).pos < (atBoundary [0xBF#8]).total ∧
    (atBoundary [0xBF#8]).host = [] ∧ (atBoundary [0xBF#8]).bytesLeft = [(0b10#2 ++ 63#6 : Byte)] := by decide

/-- The longest run, with cells to spare. -/
theorem witness_RunFits :
    (atBoundary [0xFD#8]).fsm = .op ∧ (61#6 : BitVec 6).toNat ≤ 61 ∧
    (atBoundary [0xFD#8]).pos.toNat + ((61#6 : BitVec 6).toNat + 1) ≤ (atBoundary [0xFD#8]).total.toNat ∧
    (atBoundary [0xFD#8]).host = [] ∧ (atBoundary [0xFD#8]).bytesLeft = (0b11#2 ++ 61#6 : Byte) :: [] := by decide
/-- The shortest run at the last cell. -/
theorem witness_RunFits_exact :
    (atLastCell []).fsm = .op ∧ (0#6 : BitVec 6).toNat ≤ 61 ∧
    (atLastCell []).pos.toNat + ((0#6 : BitVec 6).toNat + 1) ≤ (atLastCell []).total.toNat := by decide

theorem witness_RunOverflow :
    (atLastCell []).fsm = .op ∧ (atLastCell []).pos < (atLastCell []).total ∧ (1#6 : BitVec 6).toNat ≤ 61 ∧
    (atLastCell []).total.toNat < (atLastCell []).pos.toNat + ((1#6 : BitVec 6).toNat + 1) := by decide
theorem witness_RunOverflow_exact :
    (atLastCell []).fsm = .op ∧ (atLastCell []).pos < (atLastCell []).total ∧ (0#6 : BitVec 6).toNat ≤ 61 ∧
    (atLastCell []).pos.toNat + ((0#6 : BitVec 6).toNat + 1) = (atLastCell []).total.toNat := by decide

theorem witness_ReservedRun :
    kindOf 0xFD#8 = .run ∧ (atBoundary []).fsm = .op ∧ (atBoundary []).pos < (atBoundary []).total ∧
    ((62#6 : BitVec 6) = 62#6 ∨ (62#6 : BitVec 6) = 63#6) := by decide
theorem witness_ReservedRun_step :
    (atBoundary [0xFD#8]).cause ≠ .reservedRun ∧
    step (atBoundary [0xFD#8]) = .next (nextOf (step (atBoundary [0xFD#8]))) := ⟨by decide, rfl⟩

theorem witness_ChunkPrecondition :
    (Instr.rgb 0#8 0#8 0#8).readAs = .chunk ∧ State.reset.fsm ≠ .op ∧
    ({ ending [] with fsm := .op } : State).fsm = .op ∧
    ¬ ({ ending [] with fsm := .op } : State).pos < ({ ending [] with fsm := .op } : State).total ∧
    (atBoundary []).fsm = .op ∧ (atBoundary []).pos < (atBoundary []).total := by decide

/-- Each kind of instruction answers a next state somewhere, and its clause's condition holds there. -/
theorem witness_CacheReflectsPrev :
    (∀ i ∈ [Instr.rgb 1#8 2#8 3#8, .rgba 1#8 2#8 3#8 4#8, .index 53#6, .diff 0#2 1#2 2#2, .luma 1#6 2#4 3#4, .run 4#6],
      nextWith (exec i (atBoundary [])) (fun _ => true) = true) ∧
    nextWith (exec .endMarker (ending marker)) (fun _ => true) = true ∧
    pixelHash ((atBoundary []).cacheRead 53#6) = 53#6 ∧
    (atBoundary []).cacheRead (pixelHash (atBoundary []).prev) = (atBoundary []).prev ∧
    (ending marker).cacheRead (pixelHash (ending marker).prev) = (ending marker).prev := by decide

theorem witness_EndRule :
    (ending (marker ++ [0xAA#8])).fsm = .endMark ∧ (ending (marker ++ [0xAA#8])).latches.endcnt = 0#4 ∧
    (ending (marker ++ [0xAA#8])).host = [] ∧
    (ending (marker ++ [0xAA#8])).bytesLeft = [0#8, 0#8, 0#8, 0#8, 0#8, 0#8, 0#8, 1#8] ++ [0xAA#8] := by decide
/-- A wrong first byte and a wrong last byte. -/
theorem witness_EndRule_bad :
    ((1#8 : Byte) ≠ if 0 = 7 then 1#8 else 0#8) ∧ (ending [1#8, 5#8]).bytesLeft = List.replicate 0 0#8 ++ 1#8 :: [5#8] ∧
    ((0#8 : Byte) ≠ if 7 = 7 then 1#8 else 0#8) ∧
    (ending [0#8, 0#8, 0#8, 0#8, 0#8, 0#8, 0#8, 0#8]).bytesLeft = List.replicate 7 0#8 ++ 0#8 :: [] := by decide
/-- An empty rest and one of seven bytes. -/
theorem witness_EndRule_short :
    (ending []).bytesLeft = List.replicate 0 0#8 ∧
    (ending [0#8, 0#8, 0#8, 0#8, 0#8, 0#8, 0#8]).bytesLeft = List.replicate 7 0#8 := by decide

theorem witness_EndPrecondition : State.reset.phase ≠ .endmark ∧ (ending []).phase = .endmark := by decide

theorem witness_StepRunsDecoded :
    (atBoundary [0xC4#8]).host = [] ∧ (atBoundary [0xC4#8]).fsm = .op ∧
    decode .chunk (atBoundary [0xC4#8]).bytesLeft = .ok (.run 4#6, []) ∧
    (ending []).host = [] ∧ (ending []).fsm = .endMark ∧
    ({ State.reset with host := [.start 1#32 1#32 []] } : State).host = .start 1#32 1#32 [] :: [] :=
  ⟨rfl, rfl, rfl, rfl, rfl, rfl⟩
/-- Inside a chunk: a payload byte is awaited, and a pixel waits. -/
theorem witness_StepRunsDecoded_inside :
    ({ atBoundary [0x0A#8] with fsm := .litR } : State).host = [] ∧
    ({ atBoundary [0x0A#8] with fsm := .litR } : State).fsm = .litR ∧
    ({ atBoundary [] with fsm := .run } : State).host = [] ∧ ({ atBoundary [] with fsm := .run } : State).fsm = .run :=
  ⟨rfl, rfl, rfl, rfl⟩

/-- A stream that ends after the first byte of a LUMA, and an empty one. -/
theorem witness_ShortRead :
    (atBoundary [0xA5#8]).host = [] ∧ (atBoundary [0xA5#8]).fsm = .op ∧
    (atBoundary [0xA5#8]).sp ≤ (atBoundary [0xA5#8]).stream.length ∧
    (∀ b0 rest, (atBoundary [0xA5#8]).bytesLeft = b0 :: rest →
      (atBoundary [0xA5#8]).bytesLeft.length < (kindOf b0).length) := by
  refine ⟨rfl, rfl, by decide, fun b0 rest h => ?_⟩
  injection h with h _
  rw [← h]; decide
theorem witness_ShortRead_empty :
    (atBoundary []).host = [] ∧ (atBoundary []).fsm = .op ∧ (atBoundary []).sp ≤ (atBoundary []).stream.length ∧
    (∀ b0 rest, (atBoundary []).bytesLeft = b0 :: rest → (atBoundary []).bytesLeft.length < (kindOf b0).length) :=
  ⟨rfl, rfl, by decide, fun _ _ h => nomatch h⟩

theorem witness_BytesAfterUnread :
    (atBoundary [0xC4#8, 0x99#8]).host = [] ∧
    (atBoundary [0xC4#8, 0x99#8]).sp ≤ (atBoundary [0xC4#8, 0x99#8]).stream.length ∧
    step (atBoundary [0xC4#8, 0x99#8]) = .next (nextOf (step (atBoundary [0xC4#8, 0x99#8]))) ∧
    (nextOf (step (atBoundary [0xC4#8, 0x99#8]))).cause ≠ .shortRead := ⟨rfl, by decide, rfl, by decide⟩

theorem witness_ViolationEntry :
    (endedIn .fail .shortRead).phase = .failed ∧ (endedIn .fail .shortRead).host = [] := by decide

theorem witness_DoneOnlyByEnd :
    (ending marker).fsm = .endMark ∧ (ending marker).latches.endcnt = 0#4 ∧ (ending marker).host = [] ∧
    step (ending marker) = .next (nextOf (step (ending marker))) ∧ (nextOf (step (ending marker))).phase = .done :=
  ⟨rfl, rfl, rfl, rfl, by decide⟩
theorem witness_DoneOnlyByEnd_resting :
    State.reset.phase = .idle ∧ State.reset.host = [] ∧ (endedIn .done .noViolation).phase = .done ∧
    (endedIn .done .noViolation).host = [] ∧ (endedIn .fail .shortRead).phase = .failed := by decide

/-- From CHUNK to CHUNK, to ENDMARK and to FAILED, and from ENDMARK to DONE. -/
theorem witness_PhaseOrder :
    (atBoundary [0xC4#8]).host = [] ∧ (atLastCell [0xC0#8]).host = [] ∧ (ending marker).host = [] ∧
    nextWith (step (atBoundary [0xC4#8])) (fun t => t.phase = .chunk) = true ∧
    nextWith (step (atLastCell [0xC0#8])) (fun t => t.phase = .endmark) = true ∧
    nextWith (step (atLastCell [0xC1#8])) (fun t => t.phase = .failed) = true ∧
    nextWith (step (ending marker)) (fun t => t.phase = .done) = true := by decide

theorem witness_ChunkProgress :
    (atBoundary [0xFD#8]).host = [] ∧ (atBoundary [0xFD#8]).fsm = .op ∧
    step (atBoundary [0xFD#8]) = .next (nextOf (step (atBoundary [0xFD#8]))) ∧
    (nextOf (step (atBoundary [0xFD#8]))).phase ≠ .failed := ⟨rfl, rfl, rfl, by decide⟩

/-- `SizeInv`, `ProgressInv` and `RasterInv` at a chunk boundary before the first cell. -/
theorem decodeInv_atBoundary : DecodeInv (atBoundary (0xC0#8 :: marker)) :=
  ⟨fun _ => by decide, by show State.chunkDue _; unfold State.chunkDue; decide, fun _ => by decide⟩

/-- The same when the end marker is due, and in DONE. -/
theorem decodeInv_ending (b : List Byte) : DecodeInv (ending b) :=
  ⟨fun _ => ⟨of_decide_eq_true rfl, of_decide_eq_true rfl, rfl⟩, ⟨rfl, of_decide_eq_true rfl⟩, fun _ => rfl⟩
theorem decodeInv_done : DecodeInv (endedIn .done .noViolation) :=
  ⟨fun _ => by decide, by show _ ∧ _; decide, fun _ => by decide⟩

theorem witness_DecodeEnds :
    (atBoundary (0xC0#8 :: marker)).host = [] ∧ DecodeInv (atBoundary (0xC0#8 :: marker)) ∧
    (atBoundary (0xC0#8 :: marker)).fsm = .op := ⟨rfl, decodeInv_atBoundary, rfl⟩

theorem witness_StepKeepsBufferForm :
    BufferInv (atLastCell [0xC0#8]) ∧ step (atLastCell [0xC0#8]) = .next (nextOf (step (atLastCell [0xC0#8]))) :=
  ⟨by unfold BufferInv; decide, rfl⟩

theorem witness_StepKeepsCacheInv :
    CacheInv (atBoundary [0xFE#8, 1#8, 2#8, 3#8]) ∧
    step (atBoundary [0xFE#8, 1#8, 2#8, 3#8]) = .next (nextOf (step (atBoundary [0xFE#8, 1#8, 2#8, 3#8]))) :=
  ⟨by unfold CacheInv; decide, rfl⟩

theorem witness_StepKeepsCauseInv :
    CauseInv (atLastCell [0xC1#8]) ∧ step (atLastCell [0xC1#8]) = .next (nextOf (step (atLastCell [0xC1#8]))) :=
  ⟨by unfold CauseInv; decide, rfl⟩

theorem witness_StepKeepsCursorInv :
    CursorInv (atBoundary [0xA5#8, 0x3C#8]) ∧
    step (atBoundary [0xA5#8, 0x3C#8]) = .next (nextOf (step (atBoundary [0xA5#8, 0x3C#8]))) :=
  ⟨by unfold CursorInv; decide, rfl⟩

theorem witness_StepKeepsDecodeInv :
    DecodeInv (atBoundary (0xC0#8 :: marker)) ∧
    step (atBoundary (0xC0#8 :: marker)) = .next (nextOf (step (atBoundary (0xC0#8 :: marker)))) :=
  ⟨decodeInv_atBoundary, rfl⟩

theorem witness_StepKeepsLastPixel :
    LastPixelInv (ending marker) ∧ step (ending marker) = .next (nextOf (step (ending marker))) :=
  ⟨fun _ => by decide, rfl⟩

theorem witness_DoneImageComplete :
    DecodeInv (endedIn .done .noViolation) ∧ (endedIn .done .noViolation).phase = .done ∧
    0 < (endedIn .done .noViolation).width.toNat * (endedIn .done .noViolation).height.toNat ∧
    (endedIn .done .noViolation).width.toNat * (endedIn .done .noViolation).height.toNat ≤ 1 :=
  ⟨decodeInv_done, rfl, by decide, by decide⟩

/-- A run that fits, and one that overflows. -/
theorem witness_EventsAgreeWithChunk :
    (atBoundary [0xFD#8, 7#8]).fsm = .op ∧ (atBoundary [0xFD#8, 7#8]).pos < (atBoundary [0xFD#8, 7#8]).total ∧
    (Instr.run 61#6).wellFormed = true ∧ (Instr.run 61#6).readAs = .chunk ∧
    (atBoundary [0xFD#8, 7#8]).bytesLeft = encode (.run 61#6) ++ [7#8] ∧
    (atLastCell [0xC1#8]).fsm = .op ∧ (atLastCell [0xC1#8]).pos < (atLastCell [0xC1#8]).total ∧
    (atLastCell [0xC1#8]).bytesLeft = encode (.run 1#6) ++ [] := by decide

theorem witness_EventsAgreeWithEnd : (ending marker).fsm = .endMark := rfl

theorem witness_EventsAgreeOnShortRead :
    (atBoundary [0xA5#8]).fsm = .op ∧ (atBoundary [0xA5#8]).host = [] ∧
    (atBoundary [0xA5#8]).sp ≤ (atBoundary [0xA5#8]).stream.length ∧
    (∀ b0 rest, (atBoundary [0xA5#8]).bytesLeft = b0 :: rest →
      (atBoundary [0xA5#8]).bytesLeft.length < (kindOf b0).length) :=
  ⟨witness_ShortRead.2.1, witness_ShortRead.1, witness_ShortRead.2.2⟩

/-- Inputs with nothing offered and nothing accepted. -/
def quiet : Inputs :=
  { rst := false, start := false, cfgWidth := 1#32, cfgHeight := 1#32, startStream := [], inValid := false,
    inData := 0#8, inEos := false, outReady := false }

/-- A byte is awaited with `out_ready` 1. -/
theorem witness_StallChangesNothing :
    ({ quiet with outReady := true } : Inputs).rst = false ∧ ({ quiet with outReady := true } : Inputs).start = false ∧
    (atBoundary [0xC4#8]).fsm.inReady = true ∧ ({ quiet with outReady := true } : Inputs).inValid = false ∧
    ({ quiet with outReady := true } : Inputs).inEos = false := by decide
/-- A pixel waits with the stream's next byte offered, and with the end of the stream signalled. -/
theorem witness_StallChangesNothing_pixel :
    ({ atBoundary [0xC4#8] with fsm := .emit } : State).fsm.outValid = true ∧
    ({ quiet with inValid := true, inData := 0xC4#8 } : Inputs).outReady = false ∧
    ({ quiet with inValid := true, inData := 0xC4#8 } : Inputs).inEos = false ∧
    (({ quiet with inValid := true, inData := 0xC4#8 } : Inputs).inValid = true →
      ({ atBoundary [0xC4#8] with fsm := .emit } : State).nextByte? =
        some ({ quiet with inValid := true, inData := 0xC4#8 } : Inputs).inData) ∧
    ({ quiet with inEos := true } : Inputs).inEos = true ∧ ({ quiet with inEos := true } : Inputs).inValid = false := by
  decide
/-- A byte offered in DONE. -/
theorem witness_StallChangesNothing_resting :
    (endedIn .done .noViolation).fsm = .done ∧
    (({ quiet with inValid := true } : Inputs).inValid && ({ quiet with inValid := true } : Inputs).inEos) = false := by
  decide

theorem witness_RestingStates :
    State.reset.fsm = .idle ∧ (endedIn .done .noViolation).fsm = .done ∧ (endedIn .fail .shortRead).fsm = .fail ∧
    ({ quiet with start := true } : Inputs).rst = false ∧ ({ quiet with start := true } : Inputs).start = true ∧
    (({ quiet with start := true } : Inputs).inValid && ({ quiet with start := true } : Inputs).inEos) = false ∧
    ({ quiet with rst := true } : Inputs).rst = true ∧ ({ quiet with rst := true } : Inputs).start = false := by decide

theorem witness_FsmTable :
    (atBoundary []).fsm.outValid = false ∧ ({ atBoundary [] with fsm := .emit } : State).fsm = .emit ∧
    ({ atBoundary [] with fsm := .run } : State).fsm = .run := by decide

theorem witness_HandshakeEvents_byte :
    (atBoundary [0xC4#8]).fsm.inReady = true ∧ ({ quiet with inValid := true, inData := 0xC4#8 } : Inputs).inValid = true ∧
    (atBoundary [0xC4#8]).nextByte? = some ({ quiet with inValid := true, inData := 0xC4#8 } : Inputs).inData := by decide
theorem witness_HandshakeEvents_altered :
    (atBoundary [0xC4#8]).fsm.inReady = true ∧ ({ quiet with inValid := true, inData := 0xC5#8 } : Inputs).inValid = true ∧
    (atBoundary [0xC4#8]).nextByte? ≠ some ({ quiet with inValid := true, inData := 0xC5#8 } : Inputs).inData := by decide
/-- A byte changed while a pixel waits. -/
theorem witness_HandshakeEvents_altered_pixel :
    ({ atBoundary [0xC4#8] with fsm := .emit } : State).fsm.outValid = true ∧
    ({ quiet with inValid := true, inData := 0xC5#8 } : Inputs).inValid = true ∧
    ({ atBoundary [0xC4#8] with fsm := .emit } : State).nextByte? ≠
      some ({ quiet with inValid := true, inData := 0xC5#8 } : Inputs).inData := by decide
theorem witness_HandshakeEvents_pixel :
    ({ atBoundary [] with fsm := .emit } : State).fsm.outValid = true ∧
    ({ quiet with outReady := true } : Inputs).outReady = true ∧
    ({ quiet with outReady := true } : Inputs).rst = false ∧ ({ quiet with outReady := true } : Inputs).start = false ∧
    ({ quiet with outReady := true } : Inputs).inEos = false ∧
    (({ quiet with outReady := true } : Inputs).inValid = true →
      ({ atBoundary [] with fsm := .emit } : State).nextByte? = some ({ quiet with outReady := true } : Inputs).inData) := by
  decide

/-- A write is accepted, and a byte awaited, with the end of the stream signalled. -/
theorem witness_HandshakeEvents_eos :
    ({ quiet with outReady := true, inEos := true } : Inputs).rst = false ∧
    ({ quiet with outReady := true, inEos := true } : Inputs).start = false ∧
    ({ quiet with outReady := true, inEos := true } : Inputs).outReady = true ∧
    ({ quiet with outReady := true, inEos := true } : Inputs).inEos = true ∧
    ({ quiet with outReady := true, inEos := true } : Inputs).inValid = false ∧
    ({ atBoundary [0xC4#8] with fsm := .emit } : State).fsm.outValid = true ∧
    (atBoundary [0xC4#8]).fsm.inReady = true := by decide

theorem witness_CancelByEndOfStream :
    (atBoundary [0xC4#8]).fsm.inReady = true ∧ ({ quiet with inEos := true } : Inputs).rst = false ∧
    ({ quiet with inEos := true } : Inputs).start = false ∧ ({ quiet with inEos := true } : Inputs).inValid = false ∧
    ({ quiet with inEos := true } : Inputs).inEos = true ∧
    ({ atBoundary [0xC4#8] with host := [.endStream 0] } : State).fsm = .op ∧
    ({ atBoundary [0xC4#8] with host := [.endStream 0] } : State).host = [.endStream 0] ∧
    ({ atBoundary [0xC4#8] with host := [.endStream 0] } : State).sp ≤
      ({ atBoundary [0xC4#8] with host := [.endStream 0] } : State).stream.length := by decide

/-- A pixel waiting at the first cell, and the last pixel of a run at the last cell. -/
theorem witness_OfferedPosition :
    SizeInv { atBoundary [] with fsm := .emit } ∧
    ({ atBoundary [] with fsm := .emit } : State).pos < ({ atBoundary [] with fsm := .emit } : State).total ∧
    ({ atBoundary [] with fsm := .emit } : State).fsm.outValid = true ∧
    SizeInv { atLastCell [] with fsm := .run } ∧
    ({ atLastCell [] with fsm := .run } : State).pos < ({ atLastCell [] with fsm := .run } : State).total ∧
    ({ atLastCell [] with fsm := .run } : State).fsm.outValid = true :=
  ⟨fun _ => by decide, by decide, by decide, fun _ => by decide, by decide, by decide⟩

theorem witness_EndedRegistersUnseen :
    (endedIn .done .noViolation).ended ∧ (endedIn .fail .shortRead).ended ∧ (endedIn .fail .shortRead).host = [] :=
  ⟨.inl rfl, .inr rfl, rfl⟩

/-- A failed decode, one cut off by a reset, a finished one, and a step of the block reset from FAILED. -/
theorem witness_FailedCellsUnspecified :
    (endedIn .fail .shortRead).phase = .failed ∧ (atBoundary []).phase = .chunk ∧ (ending []).phase = .endmark ∧
    (endedIn .done .noViolation).phase = .done ∧ (endedIn .fail .shortRead).hardReset.cellsVoid = true ∧
    step (endedIn .fail .shortRead).hardReset = .next (endedIn .fail .shortRead).hardReset ∧
    (endedIn .fail .shortRead).hardReset.decodes = (endedIn .fail .shortRead).hardReset.decodes :=
  ⟨rfl, rfl, rfl, rfl, rfl, rfl, rfl⟩

theorem witness_HeaderParses :
    (⟨2#32, 1#32, 4#8, 0#8⟩ : Header).width ≠ 0#32 ∧ (⟨2#32, 1#32, 4#8, 0#8⟩ : Header).height ≠ 0#32 ∧
    ((⟨2#32, 1#32, 4#8, 0#8⟩ : Header).channels = 3#8 ∨ (⟨2#32, 1#32, 4#8, 0#8⟩ : Header).channels = 4#8) ∧
    ((⟨2#32, 1#32, 4#8, 0#8⟩ : Header).colorspace = 0#8 ∨ (⟨2#32, 1#32, 4#8, 0#8⟩ : Header).colorspace = 1#8) := by
  decide

theorem witness_HeaderAccepted :
    parseHeader [0x71#8, 0x6F#8, 0x69#8, 0x66#8, 0#8, 0#8, 0#8, 2#8, 0#8, 0#8, 0#8, 1#8, 4#8, 0#8, 0xC0#8] =
      .ok (⟨2#32, 1#32, 4#8, 0#8⟩, [0xC0#8]) := rfl

/-- A file of 13 bytes, one with the wrong magic, and a block with no move pending. -/
theorem witness_FileStartsBlock :
    [0x71#8, 0x6F#8, 0x69#8, 0x66#8, 0#8, 0#8, 0#8, 2#8, 0#8, 0#8, 0#8, 1#8, (4#8 : Byte)].length < 14 ∧
    [0x71#8, 0x6F#8, 0x69#8, (0x67#8 : Byte)] ≠ [0x71#8, 0x6F#8, 0x69#8, 0x66#8] ∧ State.reset.host = [] := by decide

end Sys2Proof.Machine.Tests
end

section
/-! PROOF. Laws the state's invariants share: what a chunk, a byte and a pixel of a run can do. -/

namespace Sys2Proof.Machine

/-! ### One pixel of a run (47_fsm_refinement.md R158) -/

@[simp] theorem State.runPixel_cache (s : State) : s.runPixel.cache = s.cache := rfl
@[simp] theorem State.runPixel_width (s : State) : s.runPixel.width = s.width := rfl
@[simp] theorem State.runPixel_height (s : State) : s.runPixel.height = s.height := rfl
@[simp] theorem State.runPixel_total (s : State) : s.runPixel.total = s.total := rfl
@[simp] theorem State.runPixel_pos (s : State) : s.runPixel.pos = s.pos + 1#64 := rfl
@[simp] theorem State.runPixel_sp (s : State) : s.runPixel.sp = s.sp := rfl
@[simp] theorem State.runPixel_cause (s : State) : s.runPixel.cause = s.cause := rfl
@[simp] theorem State.runPixel_stream (s : State) : s.runPixel.stream = s.stream := rfl
@[simp] theorem State.runPixel_buffer (s : State) :
    s.runPixel.buffer = Memory.write s.pos.toNat s.prev s.buffer := rfl
@[simp] theorem State.runPixel_latches (s : State) :
    s.runPixel.latches = { s.latches with runcnt := s.latches.runcnt - 1#6 } := rfl
@[simp] theorem State.runPixel_fsm (s : State) :
    s.runPixel.fsm = if s.latches.runcnt - 1#6 = 0#6 then nextFsm (s.pos + 1#64) s.total else .run := rfl

/-- The pixel event of S_EMIT is the chunk's tail on the pixel that waits (47_fsm_refinement.md R157). -/
theorem State.commitPending_eq_emit (s : State) : s.commitPending = s.emit s.latches.cur s.latches.upd := rfl

/-! ### What a chunk can do -/

/-- What a one-pixel chunk of `n` bytes does to the state: its bytes are consumed, its latches loaded, its pixel emitted
(40_chunk_cycle.md R70). No end-marker byte is counted. -/
def EmitsAfter (n : Nat) (s t : State) : Prop :=
  ∃ (l : Latches) (px : Pixel) (upd : Bool), l.endcnt = s.latches.endcnt ∧
    t = State.emit px upd { s with sp := s.sp + n, latches := l }

/-- Each of the five one-pixel chunks ends in the one emit-and-commit tail (40_chunk_cycle.md R70). -/
theorem exec_emits {i : Instr} {s t : State} (h : exec i s = .next t) (hr : ∀ fn, i ≠ .run fn) (he : i ≠ .endMarker) :
    s.fsm = .op ∧ s.pos < s.total ∧ EmitsAfter i.length s t := by
  cases i with
  | endMarker => exact absurd rfl he
  | run fn => exact absurd rfl (hr fn)
  | rgb r g b =>
    obtain ⟨hf, hp, rfl⟩ := atChunk_next.1 h
    exact ⟨hf, hp, (s.latchLiteral false r g b).latches, _, _, rfl, rfl⟩
  | rgba r g b a =>
    obtain ⟨hf, hp, rfl⟩ := atChunk_next.1 h
    exact ⟨hf, hp, (s.latchLiteral true r g b).latches, _, _, rfl, rfl⟩
  | index idx =>
    obtain ⟨hf, hp, rfl⟩ := atChunk_next.1 h
    exact ⟨hf, hp, s.latches, _, _, rfl, rfl⟩
  | diff fr fg fb =>
    obtain ⟨hf, hp, rfl⟩ := atChunk_next.1 h
    exact ⟨hf, hp, s.latches, _, _, rfl, rfl⟩
  | luma fdg fdrg fdbg =>
    obtain ⟨hf, hp, rfl⟩ := atChunk_next.1 h
    exact ⟨hf, hp, (s.latchLuma fdg).latches, _, _, rfl, rfl⟩

/-- An instruction that answers a next state is a one-pixel chunk, a RUN or END (40_chunk_cycle.md R70). -/
theorem exec_next {i : Instr} {s t : State} (h : exec i s = .next t) :
    (s.fsm = .op ∧ s.pos < s.total ∧ EmitsAfter i.length s t) ∨
    (s.fsm = .op ∧ s.pos < s.total ∧ ∃ fn, i = .run fn ∧ t = (s.consume 1).runChunk fn) ∨
    (s.fsm = .endMark ∧ t = s.endBytes 8) := by
  cases i with
  | endMarker => exact .inr (.inr (execEndMarker_next.1 h))
  | run fn =>
    obtain ⟨hf, hp, rfl⟩ := atChunk_next.1 h
    exact .inr (.inl ⟨hf, hp, fn, rfl, rfl⟩)
  | rgb | rgba | index | diff | luma => exact .inl (exec_emits h nofun nofun)

/-- RUN never touches the cache (44_run_chunk.md R122). -/
@[simp] theorem State.runChunk_cache (fn : BitVec 6) (s : State) : (s.runChunk fn).cache = s.cache := by
  rcases s.runChunk_cases fn with ⟨-, e⟩ | ⟨-, -, e⟩ | ⟨-, -, e⟩ <;> rw [e] <;> rfl

/-- RUN never writes `prev` (44_run_chunk.md R122). -/
@[simp] theorem State.runChunk_prev (fn : BitVec 6) (s : State) : (s.runChunk fn).prev = s.prev := by
  rcases s.runChunk_cases fn with ⟨-, e⟩ | ⟨-, -, e⟩ | ⟨-, -, e⟩ <;> rw [e] <;> rfl

/-- After its control byte RUN reads no byte of the stream (44_run_chunk.md R120). -/
@[simp] theorem State.runChunk_sp (fn : BitVec 6) (s : State) : (s.runChunk fn).sp = s.sp := by
  rcases s.runChunk_cases fn with ⟨-, e⟩ | ⟨-, -, e⟩ | ⟨-, -, e⟩ <;> rw [e] <;> rfl

@[simp] theorem State.runChunk_stream (fn : BitVec 6) (s : State) : (s.runChunk fn).stream = s.stream := by
  rcases s.runChunk_cases fn with ⟨-, e⟩ | ⟨-, -, e⟩ | ⟨-, -, e⟩ <;> rw [e] <;> rfl

/-! ### What a byte can do -/

/-- The chunk in progress goes on to another state of phase CHUNK that starts no run, with nothing raised and no
end-marker byte counted. -/
structure ContinuesChunk (s t : State) : Prop where
  phase : t.phase = .chunk
  notRun : t.fsm ≠ .run
  cause : t.cause = s.cause
  endcnt : t.latches.endcnt = s.latches.endcnt

/-- What a control byte does once it is consumed: it goes on inside a chunk, starts a run that fits, or raises
(47_fsm_refinement.md R155). -/
theorem State.opByte_cases (b : Byte) (s : State) :
    ContinuesChunk s (s.opByte b) ∨
    (∃ fn : BitVec 6, fn.toNat ≤ 61 ∧ runLength fn ≤ s.cellsLeft ∧
      s.opByte b = { s.latchRun (fn + 1#6) with fsm := .run }) ∨
    (∃ c, c ≠ .noViolation ∧ s.opByte b = s.raise c) := by
  unfold State.opByte
  cases kindOf b with
  | rgb | rgba | index | diff | luma => exact .inl ⟨rfl, nofun, rfl, rfl⟩
  | run =>
    dsimp only
    split
    · exact .inr (.inr ⟨.reservedRun, nofun, rfl⟩)
    · next hr =>
      split
      · exact .inr (.inr ⟨.runOverflow, nofun, rfl⟩)
      · next hc => exact .inr (.inl ⟨runField b, by bv_omega, by omega, rfl⟩)

/-- What a byte event does to the phase, the counters and `cause` (47_fsm_refinement.md R155 to R159). -/
theorem State.byteEvent_cases (b : Byte) (s : State) (hr : s.fsm.inReady = true) :
    (s.phase = .chunk ∧ s.fsm ≠ .run ∧ ContinuesChunk s (s.byteEvent b)) ∨
    (s.fsm = .op ∧ ∃ fn : BitVec 6, fn.toNat ≤ 61 ∧ runLength fn ≤ s.cellsLeft ∧
      s.byteEvent b = { (s.consume 1).latchRun (fn + 1#6) with fsm := .run }) ∨
    (s.fsm = .endMark ∧ s.byteEvent b = s.endByte b ∧ (s.endByte b).cause = s.cause ∧
      ((s.endByte b).fsm = .done ∧ (s.endByte b).latches.endcnt = 8#4 ∨
       (s.endByte b).fsm = .endMark ∧ (s.endByte b).latches.endcnt = s.latches.endcnt + 1#4 ∧
         s.latches.endcnt + 1#4 ≠ 8#4)) ∨
    (∃ c, c ≠ .noViolation ∧ s.byteEvent b = (s.consume 1).raise c) := by
  unfold State.byteEvent State.phase
  cases hf : s.fsm with
  | idle | emit | run | done | fail => simp [hf, Fsm.inReady] at hr
  | op =>
    rcases (s.consume 1).opByte_cases b with h | ⟨fn, hfn, hc, h⟩ | ⟨c, hc, h⟩
    · exact .inl ⟨rfl, nofun, h.phase, h.notRun, h.cause, h.endcnt⟩
    · exact .inr (.inl ⟨rfl, fn, hfn, hc, h⟩)
    · exact .inr (.inr (.inr ⟨c, hc, h⟩))
  | litB =>
    refine .inl ⟨rfl, nofun, ?_⟩
    dsimp only [State.litBByte]
    split <;> exact ⟨rfl, nofun, rfl, rfl⟩
  | litR | litG | litA | luma2 => exact .inl ⟨rfl, nofun, rfl, nofun, rfl, rfl⟩
  | endMark =>
    dsimp only
    rcases s.endByte_cases b with ⟨-, -, h⟩ | ⟨-, hne, h⟩ | ⟨-, h⟩
    · exact .inr (.inr (.inl ⟨rfl, rfl, by rw [h]; rfl, .inl (by rw [h]; exact ⟨rfl, rfl⟩)⟩))
    · exact .inr (.inr (.inl ⟨rfl, rfl, by rw [h]; rfl, .inr (by rw [h]; exact ⟨rfl, rfl, hne⟩)⟩))
    · exact .inr (.inr (.inr ⟨.badEndMarker, nofun, h⟩))

/-- A state that takes bytes is in CHUNK or ENDMARK (47_fsm_refinement.md R153). -/
theorem State.phase_of_inReady {s : State} (h : s.fsm.inReady = true) : s.phase = .chunk ∨ s.phase = .endmark := by
  unfold State.phase
  cases hf : s.fsm with
  | idle | emit | run | done | fail => simp [hf, Fsm.inReady] at h
  | op | litR | litG | litB | litA | luma2 => exact .inl rfl
  | endMark => exact .inr rfl

/-- Phase ENDMARK is the one state S_END (47_fsm_refinement.md R153). -/
theorem State.fsm_of_endmark {s : State} (h : s.phase = .endmark) : s.fsm = .endMark := by
  unfold State.phase at h
  cases hf : s.fsm with
  | endMark => rfl
  | idle | op | litR | litG | litB | litA | luma2 | emit | run | done | fail => simp [hf, Fsm.phase] at h

end Sys2Proof.Machine

end

section
/-! PROOF. The cache holds only zero pixels and pixels at their own hash (10_state.md R14). -/

namespace Sys2Proof.Machine

/-- The cache invariant speaks of the cache alone. -/
theorem CacheInv.congr {s t : State} (h : CacheInv s) (e : t.cache = s.cache) : CacheInv t := by
  intro i
  rw [State.cacheRead_congr e]
  exact h i

/-- The initial cache: the one seeded slot lies at the hash of its pixel (10_state.md R16). -/
theorem CacheInv.of_initial {s : State} (e : s.cache = cacheInitial) : CacheInv s := by
  intro i
  rw [State.cacheRead_initial s e]
  split
  · next hi => subst hi; exact .inr (by decide)
  · exact .inl rfl

/-- A chunk writes its pixel at the pixel's own hash, or nowhere (40_chunk_cycle.md R76). -/
theorem CacheInv.emit {s : State} (h : CacheInv s) (px : Pixel) (upd : Bool) : CacheInv (s.emit px upd) := by
  intro i
  rw [State.cacheRead_emit]
  split
  · next hi => exact .inr hi.2.symm
  · exact h i

theorem CacheInv.exec {i : Instr} {s t : State} (h : CacheInv s) (e : exec i s = .next t) : CacheInv t := by
  rcases exec_next e with ⟨-, -, l, px, upd, -, rfl⟩ | ⟨-, -, fn, -, rfl⟩ | ⟨-, rfl⟩
  · have hu : CacheInv { s with sp := s.sp + i.length, latches := l } := h
    exact hu.emit px upd
  · exact h.congr (by simp)
  · exact h.congr (s.endBytes_frame 8).cache

/-- Every part of a step keeps the cache invariant. -/
theorem cacheInv_kept : KeptByParts CacheInv where
  host _ _ hs := hs.congr rfl
  start _ _ _ _ _ _ _ _ := .of_initial rfl
  reset _ _ := .of_initial rfl
  endStream _ _ hs := hs.congr rfl
  chunk _ _ _ _ hs _ _ e := hs.exec e
  shortChunk _ hs _ := hs.congr rfl
  byte s b hs _ _ := hs.congr (s.byteEvent_frame b).cache
  shortByte _ hs _ := hs.congr rfl
  pixel s hs _ _ := hs.emit s.latches.cur s.latches.upd
  runPixel _ hs _ _ := hs.congr rfl

/-- Settles O36: every part of a step leaves the cache, loads the initial one, or writes a pixel at its own hash. -/
theorem stepKeepsCacheInv : Obligations.StepKeepsCacheInv := fun _ _ hs h => cacheInv_kept.step hs h

end Sys2Proof.Machine

end

section
/-! PROOF. Sizes, cursors, counters and the cells written agree (10_state.md R15, R17, R19; 20_memory.md R38). -/

namespace Sys2Proof.Machine

/-- `n` cells from `pos` on receive `px` and `pos` moves past them; the sizes of the decode stay (20_memory.md R38). -/
structure WritesCells (n : Nat) (px : Pixel) (s t : State) : Prop where
  width : t.width = s.width
  height : t.height = s.height
  total : t.total = s.total
  pos : t.pos = s.pos + BitVec.ofNat 64 n
  fits : s.pos.toNat + n < 2 ^ 64
  buffer : t.buffer = Memory.fill n s.pos.toNat px s.buffer

namespace WritesCells

variable {n : Nat} {px : Pixel} {s t : State}

theorem pos_toNat (k : WritesCells n px s t) : t.pos.toNat = s.pos.toNat + n := by
  have := k.fits
  rw [k.pos, BitVec.toNat_add, BitVec.toNat_ofNat]
  omega

/-- Writing no cell: whatever leaves the sizes, `pos` and the buffer. -/
theorem of_frame (h : EndFrame s t) : WritesCells 0 s.prev s t where
  width := h.width
  height := h.height
  total := h.total
  pos := by simp [h.pos]
  fits := s.pos.isLt
  buffer := h.buffer

/-- The tail of a one-pixel chunk writes one cell (40_chunk_cycle.md R73). -/
theorem of_emit (px : Pixel) (upd : Bool) (hp : s.pos < s.total) : WritesCells 1 px s (s.emit px upd) where
  width := by simp
  height := by simp
  total := by simp
  pos := by simp
  fits := by have := s.total.isLt; bv_omega
  buffer := by simp [Memory.fill]

/-- A pixel of a run writes one cell (47_fsm_refinement.md R158). -/
theorem of_runPixel (hp : s.pos < s.total) : WritesCells 1 s.prev s s.runPixel where
  width := rfl
  height := rfl
  total := rfl
  pos := rfl
  fits := by have := s.total.isLt; bv_omega
  buffer := rfl

/-- A run that fits writes its cells (44_run_chunk.md R122). -/
theorem of_runWrite (l : BitVec 6) (hn : s.pos.toNat + n ≤ s.total.toNat) :
    WritesCells n s.prev s (((s.runWrite n).latchRun l).advance n) where
  width := rfl
  height := rfl
  total := rfl
  pos := rfl
  fits := by have := s.total.isLt; omega
  buffer := rfl

theorem sizeInv (k : WritesCells n px s t) (hs : s.phase ≠ .idle) (h : SizeInv s) : SizeInv t := by
  intro _
  rw [k.width, k.height, k.total]
  exact h hs

/-- The cells written stay an initial segment of the raster. -/
theorem rasterInv (k : WritesCells n px s t) (hs : s.phase = .chunk ∨ s.phase = .endmark) (h : RasterInv s) :
    RasterInv t := by
  intro _
  rw [k.buffer, k.pos_toNat]
  exact Memory.fill_raster n _ px _ (h (hs.imp_right .inl))

/-- After an advance within the image the next chunk is due, or the end marker (40_chunk_cycle.md R78). -/
theorem progressInv (k : WritesCells n px s t) (hn : s.pos.toNat + n ≤ s.total.toNat)
    (he : t.latches.endcnt = 0#4) (hf : t.fsm = nextFsm t.pos s.total) : ProgressInv t := by
  have hp := k.pos_toNat
  have ht := k.total
  unfold nextFsm at hf
  unfold ProgressInv
  split at hf
  · next e => rw [hf]; exact ⟨e.trans ht.symm, by simp [he]⟩
  · next e => rw [hf]; exact ⟨by rw [ht]; bv_omega, he⟩

end WritesCells

/-! ### The progress invariant in each phase -/

theorem progressInv_of_chunk {s : State} (hp : s.phase = .chunk) (hr : s.fsm ≠ .run) :
    ProgressInv s ↔ s.chunkDue := by
  unfold State.phase at hp
  unfold ProgressInv
  cases hf : s.fsm with
  | idle | endMark | done | fail => simp [hf, Fsm.phase] at hp
  | run => exact absurd hf hr
  | op | litR | litG | litB | litA | luma2 | emit => rfl

theorem progressInv_of_run {s : State} (hf : s.fsm = .run) : ProgressInv s ↔
    s.chunkDue ∧ 0 < s.latches.runcnt.toNat ∧ s.latches.runcnt.toNat ≤ 62 ∧
      s.pos.toNat + s.latches.runcnt.toNat ≤ s.total.toNat := by
  unfold ProgressInv; rw [hf]

theorem progressInv_of_endMark {s : State} (hf : s.fsm = .endMark) :
    ProgressInv s ↔ s.pos = s.total ∧ s.latches.endcnt.toNat ≤ 7 := by
  unfold ProgressInv; rw [hf]

theorem progressInv_of_fail {s : State} (hf : s.fsm = .fail) : ProgressInv s ↔ s.pos ≤ s.total := by
  unfold ProgressInv; rw [hf]

theorem progressInv_of_done {s : State} (hf : s.fsm = .done) :
    ProgressInv s ↔ s.pos = s.total ∧ s.latches.endcnt = 8#4 := by
  unfold ProgressInv; rw [hf]

/-- Where bytes are taken `pos` is at most `total`. -/
theorem ProgressInv.pos_le {s : State} (h : ProgressInv s) (hr : s.fsm.inReady = true) : s.pos ≤ s.total := by
  rcases State.phase_of_inReady hr with hp | hp
  · have : s.pos < s.total := ((progressInv_of_chunk hp (fun e => by simp [e, Fsm.inReady] at hr)).1 h).1
    bv_omega
  · have : s.pos = s.total := ((progressInv_of_endMark (State.fsm_of_endmark hp)).1 h).1
    bv_omega

/-- A byte keeps the cursors and counters in their ranges: a run it starts fits the cells left, and an end-marker byte
that is not the last leaves the counter below 8 (47_fsm_refinement.md R155 to R159). -/
theorem ProgressInv.byteEvent {s : State} (h : ProgressInv s) (b : Byte) (hr : s.fsm.inReady = true) :
    ProgressInv (s.byteEvent b) := by
  have hle := h.pos_le hr
  have frame := s.byteEvent_frame b
  rcases s.byteEvent_cases b hr with ⟨hp, hne, k⟩ | ⟨hf, fn, hfn, hc, e⟩ | ⟨hf, e, -, hd⟩ | ⟨c, -, e⟩
  · obtain ⟨hlt, hz⟩ := (progressInv_of_chunk hp hne).1 h
    refine (progressInv_of_chunk k.phase k.notRun).2 ⟨?_, k.endcnt.trans hz⟩
    rwa [frame.pos, frame.total]
  · obtain ⟨hlt, hz⟩ : s.chunkDue := (progressInv_of_chunk (congrArg Fsm.phase hf) (by simp [hf])).1 h
    rw [e]
    have hn : (fn + 1#6).toNat = fn.toNat + 1 := by bv_omega
    unfold runLength State.cellsLeft at hc
    refine (progressInv_of_run rfl).2 ⟨⟨hlt, hz⟩, ?_⟩
    change 0 < (fn + 1#6).toNat ∧ (fn + 1#6).toNat ≤ 62 ∧ s.pos.toNat + (fn + 1#6).toNat ≤ s.total.toNat
    omega
  · obtain ⟨hpt, hcnt⟩ := (progressInv_of_endMark hf).1 h
    have hpt' : (s.byteEvent b).pos = (s.byteEvent b).total := by rw [frame.pos, frame.total, hpt]
    rw [← e] at hd
    rcases hd with ⟨hd, hc⟩ | ⟨hm, hc, hne⟩
    · exact (progressInv_of_done hd).2 ⟨hpt', hc⟩
    · exact (progressInv_of_endMark hm).2 ⟨hpt', by rw [hc]; bv_omega⟩
  · rw [e]
    exact (progressInv_of_fail rfl).2 hle

/-! ### Every part of a step keeps the decode invariant -/

/-- START begins at cell 0 of a nonempty image (45_end_marker.md R130). -/
theorem DecodeInv.startLoad (s : State) {w h : BitVec 32} (str : List Byte) (hw : w ≠ 0#32) (hh : h ≠ 0#32) :
    DecodeInv (s.startLoad w h str) := by
  have ht := total_toNat w h
  have hpos : 0 < w.toNat * h.toNat := Nat.mul_pos (by bv_omega) (by bv_omega)
  refine ⟨fun _ => ⟨hw, hh, ht⟩, ⟨?_, rfl⟩, fun _ => rfl⟩
  change 0#64 < w.setWidth 64 * h.setWidth 64
  rw [BitVec.lt_def, ht]
  exact hpos

/-- After reset no decode runs and `pos` is 0 (70_reset_and_hazards.md R190). -/
theorem DecodeInv.of_idle {s : State} (hf : s.fsm = .idle) (hp : s.pos = 0#64) : DecodeInv s := by
  have hi : s.phase = .idle := congrArg Fsm.phase hf
  refine ⟨fun k => absurd hi k, ?_, fun k => ?_⟩
  · unfold ProgressInv; rw [hf]; exact hp
  · simp [hi] at k

/-- A violation raised while a decode runs leaves `pos` within the image (60_exceptions.md R172). -/
theorem DecodeInv.fail {s t : State} (h : DecodeInv s) (hr : s.fsm.inReady = true) (k : EndFrame s t)
    (hf : t.fsm = .fail) : DecodeInv t := by
  obtain ⟨hsize, hprog, -⟩ := h
  have hphase := State.phase_of_inReady hr
  refine ⟨(WritesCells.of_frame k).sizeInv (by rcases hphase with e | e <;> simp [e]) hsize, ?_, fun c => ?_⟩
  · rw [progressInv_of_fail hf, k.pos, k.total]
    exact hprog.pos_le hr
  · simp [State.phase, hf, Fsm.phase] at c

/-- Cells written at the end of a chunk, and the advance past them (40_chunk_cycle.md R73, R78). -/
theorem DecodeInv.advance {n : Nat} {px : Pixel} {s t : State} (h : DecodeInv s) (hs : s.phase = .chunk)
    (k : WritesCells n px s t) (hn : s.pos.toNat + n ≤ s.total.toNat) (he : t.latches.endcnt = 0#4)
    (hf : t.fsm = nextFsm t.pos s.total) : DecodeInv t := by
  obtain ⟨hsize, -, hraster⟩ := h
  exact ⟨k.sizeInv (by simp [hs]) hsize, k.progressInv hn he hf, k.rasterInv (.inl hs) hraster⟩

theorem DecodeInv.byteEvent {s : State} (h : DecodeInv s) (b : Byte) (hr : s.fsm.inReady = true) :
    DecodeInv (s.byteEvent b) := by
  obtain ⟨hsize, hprog, hraster⟩ := h
  have hphase := State.phase_of_inReady hr
  have k := WritesCells.of_frame (s.byteEvent_frame b)
  exact ⟨k.sizeInv (by rcases hphase with e | e <;> simp [e]) hsize, hprog.byteEvent b hr, k.rasterInv hphase hraster⟩

/-- In phase CHUNK, outside a run, a chunk is due or in progress. -/
theorem DecodeInv.chunkDue {s : State} (h : DecodeInv s) (hs : s.phase = .chunk) (hr : s.fsm ≠ .run) :
    s.chunkDue := by
  obtain ⟨-, hprog, -⟩ := h
  exact (progressInv_of_chunk hs hr).1 hprog

/-- A pending pixel, or a one-pixel chunk, fills the next cell (40_chunk_cycle.md R70). -/
theorem DecodeInv.emit {s : State} (h : DecodeInv s) (hs : s.phase = .chunk) (hr : s.fsm ≠ .run)
    (px : Pixel) (upd : Bool) : DecodeInv (s.emit px upd) := by
  obtain ⟨hlt, hz⟩ := h.chunkDue hs hr
  exact h.advance hs (.of_emit px upd hlt) (by bv_omega) (by simpa using hz) (by simp)

theorem DecodeInv.runPixel {s : State} (h : DecodeInv s) (hf : s.fsm = .run) : DecodeInv s.runPixel := by
  have ⟨hsize, hprog, hraster⟩ := h
  obtain ⟨⟨hlt, hz⟩, hpos, hmax, hfit⟩ := (progressInv_of_run hf).1 hprog
  have hs : s.phase = .chunk := congrArg Fsm.phase hf
  have k : WritesCells 1 s.prev s s.runPixel := .of_runPixel hlt
  by_cases hlast : s.latches.runcnt - 1#6 = 0#6
  · exact h.advance hs k (by omega) hz (by simp [hlast])
  · refine ⟨k.sizeInv (by simp [hs]) hsize, ?_, k.rasterInv (.inl hs) hraster⟩
    have hcnt : (s.latches.runcnt - 1#6).toNat = s.latches.runcnt.toNat - 1 := by bv_omega
    have hmore : s.latches.runcnt.toNat ≠ 1 := by bv_omega
    have hp := k.pos_toNat
    refine (progressInv_of_run (by simp [hlast])).2 ⟨⟨?_, hz⟩, ?_⟩
    · rw [BitVec.lt_def, hp, k.total]; omega
    · rw [hp, State.runPixel_latches, State.runPixel_total, hcnt]; omega

/-- RUN raises, or fills cells that are left (44_run_chunk.md R120). -/
theorem DecodeInv.runChunk {s : State} (h : DecodeInv s) (hf : s.fsm = .op) (fn : BitVec 6) :
    DecodeInv (s.runChunk fn) := by
  have hs : s.phase = .chunk := congrArg Fsm.phase hf
  obtain ⟨hlt, hz⟩ := h.chunkDue hs (by simp [hf])
  rcases s.runChunk_cases fn with ⟨-, e⟩ | ⟨-, -, e⟩ | ⟨-, hc, e⟩
  · rw [e]; exact h.fail (congrArg Fsm.inReady hf) (by constructor <;> rfl) rfl
  · rw [e]; exact h.fail (congrArg Fsm.inReady hf) (by constructor <;> rfl) rfl
  · have hn : s.pos.toNat + runLength fn ≤ s.total.toNat := by unfold State.cellsLeft at hc; bv_omega
    rw [e]; exact h.advance hs (.of_runWrite 0#6 hn) hn hz rfl

/-- A chunk's bytes and latches leave the cursors and counters in agreement (47_fsm_refinement.md R155). -/
theorem DecodeInv.fetched {s : State} (h : DecodeInv s) (hf : s.fsm = .op) (n : Nat) {l : Latches}
    (hl : l.endcnt = s.latches.endcnt) : DecodeInv { s with sp := s.sp + n, latches := l } := by
  have hs : s.phase = .chunk := congrArg Fsm.phase hf
  obtain ⟨hlt, hz⟩ := h.chunkDue hs (by simp [hf])
  obtain ⟨hsize, -, hraster⟩ := h
  refine ⟨hsize, (progressInv_of_chunk ?_ ?_).2 ⟨hlt, hl.trans hz⟩, hraster⟩
  · exact hs
  · simp [hf]

theorem DecodeInv.exec_chunk {i : Instr} {s t : State} (h : DecodeInv s) (hf : s.fsm = .op) (e : exec i s = .next t) :
    DecodeInv t := by
  rcases exec_next e with ⟨-, -, l, px, upd, hl, rfl⟩ | ⟨-, -, fn, -, rfl⟩ | ⟨hf', -⟩
  · exact (h.fetched hf i.length hl).emit (congrArg Fsm.phase hf) (by simp [hf]) px upd
  · exact (h.fetched hf 1 rfl).runChunk hf fn
  · simp [hf] at hf'

/-- Every part of a step keeps the decode invariant. -/
theorem decodeInv_kept : KeptByParts DecodeInv where
  host _ _ hs := hs
  start s w h str _ _ hw hh := .startLoad s str hw hh
  reset _ _ := .of_idle rfl rfl
  endStream _ _ hs := hs
  chunk _ _ _ _ hs hf _ e := hs.exec_chunk hf e
  shortChunk _ hs hf := hs.fail (congrArg Fsm.inReady hf) (by constructor <;> rfl) rfl
  byte _ b hs hr _ := hs.byteEvent b hr
  shortByte _ hs hr := hs.fail hr (by constructor <;> rfl) rfl
  pixel s hs hf _ := hs.emit (congrArg Fsm.phase hf) (by simp [hf]) s.latches.cur s.latches.upd
  runPixel _ hs hf _ := hs.runPixel hf

/-- Settles O39: each part of a step that writes cells continues the raster, and each keeps `pos`, the run counter and
the end counter in their ranges. -/
theorem stepKeepsDecodeInv : Obligations.StepKeepsDecodeInv := fun _ _ hs h => decodeInv_kept.step hs h

end Sys2Proof.Machine

end

section
/-! PROOF. A decode does not depend on the model's host list and decode number, so START forgets what went before
(10_state.md R24). -/

namespace Sys2Proof.Machine

/-- The block in the same state, with `d` for the number of its decode and no host move pending. -/
def State.renumber (d : Nat) (s : State) : State := { s with host := [], decodes := d }

/-- An outcome with its next state renumbered. -/
def renumberOutcome (d : Nat) : Host.Outcome State Fault Refusal → Host.Outcome State Fault Refusal
  | .next s => .next (s.renumber d)
  | .fault f => .fault f
  | .refused r => .refused r

@[simp] theorem renumberOutcome_next (d : Nat) (s : State) : renumberOutcome d (.next s) = .next (s.renumber d) := rfl
@[simp] theorem renumberOutcome_fault (d : Nat) (f : Fault) : renumberOutcome d (.fault f) = .fault f := rfl
@[simp] theorem renumberOutcome_refused (d : Nat) (r : Refusal) : renumberOutcome d (.refused r) = .refused r := rfl

@[simp] theorem State.renumber_fsm (d : Nat) (s : State) : (s.renumber d).fsm = s.fsm := rfl
@[simp] theorem State.renumber_host (d : Nat) (s : State) : (s.renumber d).host = [] := rfl
@[simp] theorem State.renumber_bytesLeft (d : Nat) (s : State) : (s.renumber d).bytesLeft = s.bytesLeft := rfl
@[simp] theorem State.renumber_nextByte (d : Nat) (s : State) : (s.renumber d).nextByte? = s.nextByte? := rfl

/-- A block with no host move pending, under its own number. -/
theorem State.renumber_self {s : State} (h : s.host = []) : s.renumber s.decodes = s := by
  unfold State.renumber; rw [← h]

/-! ### Every part of a step commutes with the renumbering -/

theorem atChunk_renumber (d : Nat) (s t : State) :
    atChunk (s.renumber d) (t.renumber d) = renumberOutcome d (atChunk s t) := by
  unfold atChunk
  rw [State.renumber_fsm]
  split
  · change (if s.pos < s.total then _ else _) = _
    split <;> rfl
  · rfl

theorem ifCellLeft_renumber (d : Nat) (s t : State) :
    ifCellLeft (s.renumber d) (t.renumber d) = renumberOutcome d (ifCellLeft s t) := by
  unfold ifCellLeft
  change (if s.pos < s.total then _ else _) = _
  split <;> rfl

theorem State.emit_renumber (d : Nat) (px : Pixel) (upd : Bool) (s : State) :
    (s.renumber d).emit px upd = (s.emit px upd).renumber d := by
  cases upd <;> rfl

theorem State.runChunk_renumber (d : Nat) (fn : BitVec 6) (s : State) :
    (s.renumber d).runChunk fn = (s.runChunk fn).renumber d := by
  unfold State.runChunk
  split
  · rfl
  · change (if s.cellsLeft < runLength fn then _ else _) = _
    split <;> rfl

theorem State.endByte_renumber (d : Nat) (b : Byte) (s : State) :
    (s.renumber d).endByte b = (s.endByte b).renumber d := by
  unfold State.endByte
  change (if b = expectedEndByte s.latches.endcnt then _ else _) = _
  split <;> rfl

theorem State.endBytes_renumber (d n : Nat) (s : State) :
    (s.renumber d).endBytes n = (s.endBytes n).renumber d := by
  induction n generalizing s with
  | zero => rfl
  | succ k ih =>
    simp only [State.endBytes, State.renumber_nextByte, State.endByte_renumber, State.renumber_fsm, ih]
    split
    · rfl
    · split <;> rfl

theorem execEndMarker_renumber (d : Nat) (s : State) :
    execEndMarker (s.renumber d) = renumberOutcome d (execEndMarker s) := by
  unfold execEndMarker
  rw [State.renumber_fsm, State.endBytes_renumber]
  split <;> rfl

/-- The tail of a one-pixel chunk, `u` the state after its bytes and latches. -/
theorem atChunk_emit_renumber (d : Nat) (px : Pixel) (upd : Bool) (s u : State) :
    atChunk (s.renumber d) ((u.renumber d).emit px upd) = renumberOutcome d (atChunk s (u.emit px upd)) := by
  rw [State.emit_renumber, atChunk_renumber]

theorem exec_renumber (d : Nat) (i : Instr) (s : State) : exec i (s.renumber d) = renumberOutcome d (exec i s) := by
  cases i with
  | rgb r g b => exact atChunk_emit_renumber d _ true s ((s.consume 4).latchLiteral false r g b)
  | rgba r g b a => exact atChunk_emit_renumber d _ true s ((s.consume 5).latchLiteral true r g b)
  | index idx => exact atChunk_emit_renumber d _ false s (s.consume 1)
  | diff fr fg fb => exact atChunk_emit_renumber d _ true s (s.consume 1)
  | luma fdg fdrg fdbg => exact atChunk_emit_renumber d _ true s ((s.consume 2).latchLuma fdg)
  | run fn => exact (congrArg _ (State.runChunk_renumber d fn (s.consume 1))).trans (atChunk_renumber d s _)
  | endMarker => exact execEndMarker_renumber d s

theorem State.opByte_renumber (d : Nat) (b : Byte) (s : State) :
    (s.renumber d).opByte b = (s.opByte b).renumber d := by
  unfold State.opByte
  cases kindOf b with
  | rgb | rgba | index | diff | luma => rfl
  | run =>
    dsimp only
    split
    · rfl
    · change (if s.cellsLeft < _ then _ else _) = _
      split <;> rfl

theorem State.litBByte_renumber (d : Nat) (b : Byte) (s : State) :
    (s.renumber d).litBByte b = (s.litBByte b).renumber d := by
  unfold State.litBByte
  change (if s.latches.isRgba then _ else _) = _
  split <;> rfl

theorem State.byteEvent_renumber (d : Nat) (b : Byte) (s : State) :
    (s.renumber d).byteEvent b = (s.byteEvent b).renumber d := by
  unfold State.byteEvent
  rw [State.renumber_fsm]
  cases s.fsm with
  | op => exact State.opByte_renumber d b (s.consume 1)
  | litB => exact State.litBByte_renumber d b (s.consume 1)
  | endMark => exact State.endByte_renumber d b s
  | idle | litR | litG | litA | luma2 | emit | run | done | fail => rfl

theorem State.pixelEvent_renumber (d : Nat) (s : State) :
    (s.renumber d).pixelEvent = renumberOutcome d s.pixelEvent := by
  unfold State.pixelEvent
  rw [State.renumber_fsm]
  cases s.fsm with
  | emit =>
    dsimp only
    rw [s.commitPending_eq_emit, ← ifCellLeft_renumber, ← State.emit_renumber]
    rfl
  | run => exact ifCellLeft_renumber d s s.runPixel
  | idle | op | litR | litG | litB | litA | luma2 | endMark | done | fail => rfl

theorem State.event_renumber (d : Nat) (s : State) : (s.renumber d).event = renumberOutcome d s.event := by
  unfold State.event
  rw [State.renumber_fsm, State.renumber_nextByte, State.pixelEvent_renumber]
  split
  · cases s.nextByte? with
    | none => rfl
    | some b => exact congrArg _ (State.byteEvent_renumber d b s)
  · rfl

theorem State.stepChunk_renumber (d : Nat) (s : State) :
    (s.renumber d).stepChunk = renumberOutcome d s.stepChunk := by
  unfold State.stepChunk
  rw [State.renumber_bytesLeft]
  cases decode .chunk s.bytesLeft with
  | ok p => exact exec_renumber d p.1 s
  | error e => rfl

theorem State.blockStep_renumber (d : Nat) (s : State) :
    (s.renumber d).blockStep = renumberOutcome d s.blockStep := by
  unfold State.blockStep
  rw [State.renumber_fsm]
  cases s.fsm with
  | op => exact State.stepChunk_renumber d s
  | endMark => exact exec_renumber d .endMarker s
  | litR | litG | litB | litA | luma2 | emit | run => exact State.event_renumber d s
  | idle | done | fail => rfl

/-! ### Runs -/

/-- A block given no further host move stays so: its step is that of the block renumbered with its own number. -/
theorem State.blockStep_host {s t : State} (hs : s.host = []) (h : s.blockStep = .next t) : t.host = [] := by
  have e := State.blockStep_renumber s.decodes s
  rw [State.renumber_self hs, h] at e
  injection e with e
  rw [e]
  rfl

/-- A run ends at a fault. -/
theorem run_fault {s : State} {f : Fault} (h : step s = .fault f) (n : Nat) : core.run (n + 1) s = .fault f := by
  simp only [Host.Core.run]
  rw [show core.step s = .fault f from h]

/-- A run ends at a refusal. -/
theorem run_refused {s : State} {r : Refusal} (h : step s = .refused r) (n : Nat) :
    core.run (n + 1) s = .refused r := by
  simp only [Host.Core.run]
  rw [show core.step s = .refused r from h]

/-- With no host move pending, a run depends on the number of the decode nowhere but in that number. -/
theorem run_renumber (d n : Nat) (s : State) (hs : s.host = []) :
    core.run n (s.renumber d) = renumberOutcome d (core.run n s) := by
  induction n generalizing s with
  | zero => rfl
  | succ k ih =>
    have h := State.blockStep_renumber d s
    rw [← step_of_host_nil hs, ← step_of_host_nil (State.renumber_host d s)] at h
    cases e : step s with
    | next t =>
      rw [e] at h
      rw [run_next h, run_next e]
      exact ih t (State.blockStep_host hs (step_of_host_nil hs ▸ e))
    | fault f =>
      rw [e] at h
      rw [run_fault h, run_fault e]
      rfl
    | refused r =>
      rw [e] at h
      rw [run_refused h, run_refused e]
      rfl

/-- Two blocks started alike differ at most in the number of the decode (10_state.md R24). -/
theorem State.startLoad_renumber {s s' : State} (hs' : s'.host = []) (w h : BitVec 32) (str : List Byte) :
    (s.startLoad w h str).renumber (s'.decodes + 1) = s'.startLoad w h str := by
  unfold State.renumber State.startLoad; rw [← hs']

/-- Settles O4: START loads every register of the block, and no step reads the decode number. -/
theorem startForgets : Obligations.StartForgets := by
  intro w h str s s' t t' n hs hs' ht ht'
  obtain ⟨-, -, -, rfl⟩ := startDecode_next.1 ht
  obtain ⟨-, -, -, rfl⟩ := startDecode_next.1 ht'
  rw [← State.startLoad_renumber (s := s) hs' w h str, run_renumber _ n (s.startLoad w h str) hs]
  cases core.run n (s.startLoad w h str) with
  | next u => rfl
  | fault f => rfl
  | refused r => rfl

end Sys2Proof.Machine

end

section
/-! PROOF. The cache entry at the hash of `prev` (10_state.md R14 item 2). -/

namespace Sys2Proof.Machine

/-- After a pixel that is written to the cache, the entry at its hash is `prev` (40_chunk_cycle.md R76). -/
theorem State.cacheRead_prev_emit (px : Pixel) (s : State) :
    (s.emit px true).cacheRead (pixelHash (s.emit px true).prev) = (s.emit px true).prev := by
  rw [State.emit_prev, State.cacheRead_emit, if_pos ⟨rfl, rfl⟩]

/-- What leaves `prev` and the cache leaves the entry at the hash of `prev`. -/
theorem State.cacheRead_prev_congr {s t : State} (hp : t.prev = s.prev) (hc : t.cache = s.cache)
    (h : s.cacheRead (pixelHash s.prev) = s.prev) : t.cacheRead (pixelHash t.prev) = t.prev := by
  rw [hp, State.cacheRead_congr hc, h]

/-- Settles O23: a chunk that writes the cache writes `prev` at its hash; INDEX makes an entry `prev`; RUN and END
touch neither. -/
theorem cacheReflectsPrev : Obligations.CacheReflectsPrev := by
  intro i s t h
  cases i with
  | rgb | rgba | diff | luma =>
    obtain ⟨-, -, rfl⟩ := atChunk_next.1 h
    exact State.cacheRead_prev_emit _ _
  | index idx =>
    obtain ⟨-, -, rfl⟩ := atChunk_next.1 h
    intro hi
    rw [State.emit_prev, State.cacheRead_emit, hi, if_neg (by simp)]
    rfl
  | run fn =>
    obtain ⟨-, -, rfl⟩ := atChunk_next.1 h
    exact State.cacheRead_prev_congr (s := s) (by simp) (by simp)
  | endMarker =>
    obtain ⟨-, rfl⟩ := execEndMarker_next.1 h
    have frame := s.endBytes_frame 8
    exact State.cacheRead_prev_congr frame.prev frame.cache

end Sys2Proof.Machine

end

section
/-! PROOF. `cause` is NONE unless `phase` is FAILED (10_state.md R20). -/

namespace Sys2Proof.Machine

/-- What leaves `cause` and does not enter FAILED keeps the invariant where no decode has failed. -/
theorem CauseInv.running {s t : State} (h : CauseInv s) (hs : s.phase ≠ .failed) (hc : t.cause = s.cause)
    (ht : t.phase ≠ .failed) : CauseInv t :=
  ⟨fun _ => ht, fun _ => hc.trans (h.2 hs)⟩

/-- A violation enters FAILED with a cause (60_exceptions.md R172). -/
theorem CauseInv.raise (s : State) {c : Cause} (hc : c ≠ .noViolation) : CauseInv (s.raise c) :=
  ⟨fun e => absurd e hc, fun e => absurd rfl e⟩

theorem CauseInv.emit {s : State} (h : CauseInv s) (hs : s.phase ≠ .failed) (px : Pixel) (upd : Bool) :
    CauseInv (s.emit px upd) := by
  refine h.running hs (by simp) ?_
  rw [State.phase, State.emit_fsm]
  exact (nextFsm_phase _ _).1

theorem CauseInv.runChunk {s : State} (h : CauseInv s) (hs : s.phase ≠ .failed) (fn : BitVec 6) :
    CauseInv (s.runChunk fn) := by
  rcases s.runChunk_cases fn with ⟨-, e⟩ | ⟨-, -, e⟩ | ⟨-, -, e⟩ <;> rw [e]
  · exact .raise s nofun
  · exact .raise s nofun
  · exact h.running hs rfl (nextFsm_phase _ _).1

theorem CauseInv.byteEvent {s : State} (h : CauseInv s) (b : Byte) (hr : s.fsm.inReady = true) :
    CauseInv (s.byteEvent b) := by
  have hs : s.phase ≠ .failed := by rcases State.phase_of_inReady hr with e | e <;> simp [e]
  rcases s.byteEvent_cases b hr with ⟨-, -, k⟩ | ⟨-, fn, -, -, e⟩ | ⟨-, e, hc, hf⟩ | ⟨c, hc, e⟩
  · exact h.running hs k.cause (by simp [k.phase])
  · rw [e]; exact h.running hs rfl nofun
  · rw [e]
    refine h.running hs hc ?_
    rcases hf with ⟨hf, -⟩ | ⟨hf, -, -⟩ <;> simp [State.phase, hf, Fsm.phase]
  · rw [e]; exact .raise _ hc

theorem CauseInv.runPixel {s : State} (h : CauseInv s) (hs : s.phase ≠ .failed) : CauseInv s.runPixel := by
  refine h.running hs rfl ?_
  rw [State.phase, State.runPixel_fsm]
  split
  · exact (nextFsm_phase _ _).1
  · nofun

theorem CauseInv.exec_chunk {i : Instr} {s t : State} (h : CauseInv s) (hf : s.fsm = .op) (e : exec i s = .next t) :
    CauseInv t := by
  have hs : s.phase ≠ .failed := by simp [State.phase, hf, Fsm.phase]
  rcases exec_next e with ⟨-, -, l, px, upd, -, rfl⟩ | ⟨-, -, fn, -, rfl⟩ | ⟨hf', -⟩
  · have hu : CauseInv { s with sp := s.sp + i.length, latches := l } := h
    exact hu.emit hs px upd
  · exact CauseInv.runChunk (s := s.consume 1) h hs fn
  · simp [hf] at hf'

/-- Every part of a step keeps the cause invariant. -/
theorem causeInv_kept : KeptByParts CauseInv where
  host _ _ hs := hs
  start _ _ _ _ _ _ _ _ := ⟨fun _ => nofun, fun _ => rfl⟩
  reset _ _ := ⟨fun _ => nofun, fun _ => rfl⟩
  endStream _ _ hs := hs
  chunk _ _ _ _ hs hf _ e := hs.exec_chunk hf e
  shortChunk _ _ _ := .raise _ nofun
  byte _ b hs hr _ := hs.byteEvent b hr
  shortByte s _ _ := .raise s nofun
  pixel s hs hf _ := hs.emit (by simp [State.phase, hf, Fsm.phase]) s.latches.cur s.latches.upd
  runPixel _ hs hf _ := hs.runPixel (by simp [State.phase, hf, Fsm.phase])

/-- Settles O37: only a violation writes `cause`, and it enters FAILED; START and reset clear it. -/
theorem stepKeepsCauseInv : Obligations.StepKeepsCauseInv := fun _ _ hs h => causeInv_kept.step hs h

end Sys2Proof.Machine

end

section
/-! PROOF. The stream cursor stays within the stream (10_state.md R18, 20_memory.md R31). -/

namespace Sys2Proof.Machine

/-- A decoded chunk and the bytes after it are the bytes decoded (30_encoding.md R52). -/
theorem decodeChunk_length {bs rest : List Byte} {i : Instr} (h : decodeChunk bs = .ok (i, rest)) :
    bs.length = i.length + rest.length := by
  cases bs with
  | nil => cases h
  | cons b0 bs =>
    simp only [decodeChunk] at h
    generalize kindOf b0 = k at h
    cases k with
    | index | diff | run => cases h; exact Nat.add_comm _ 1
    | rgb | rgba | luma =>
      dsimp only at h
      split at h
      · cases h; simp only [Instr.length, List.length_cons]; omega
      · cases h

/-- Consuming bytes that are there keeps the cursor within the stream. -/
theorem CursorInv.consumed {n : Nat} {s t : State} (h : CursorInv s) (hn : n ≤ s.bytesLeft.length)
    (hsp : t.sp = s.sp + n) (hstr : t.stream = s.stream) : CursorInv t := by
  have hl : s.bytesLeft.length = s.stream.length - s.sp := List.length_drop
  unfold CursorInv at *
  rw [hsp, hstr]
  omega

theorem CursorInv.exec_chunk {i : Instr} {s t : State} {rest : List Byte} (h : CursorInv s) (hf : s.fsm = .op)
    (hd : decodeChunk s.bytesLeft = .ok (i, rest)) (e : exec i s = .next t) : CursorInv t := by
  have hlen := decodeChunk_length hd
  rcases exec_next e with ⟨-, -, l, px, upd, -, rfl⟩ | ⟨-, -, fn, rfl, rfl⟩ | ⟨hf', -⟩
  · exact h.consumed (n := i.length) (by omega) (by simp) (by simp)
  · exact h.consumed (n := 1) (by simp only [Instr.length] at hlen; omega) (by simp) (by simp)
  · simp [hf] at hf'

theorem CursorInv.byteEvent {s : State} (h : CursorInv s) (b : Byte) (hr : s.fsm.inReady = true)
    (hb : s.nextByte? = some b) : CursorInv (s.byteEvent b) := by
  have hlt : s.sp < s.stream.length := (List.getElem?_eq_some_iff.1 hb).1
  refine h.consumed (n := 1) ?_ (s.byteEvent_sp b hr) (s.byteEvent_frame b).stream
  rw [State.bytesLeft, List.length_drop]
  omega

/-- The host may end the stream at the cursor or after it, never before (60_exceptions.md R181). -/
theorem CursorInv.endStream {s : State} (h : CursorInv s) (k : Nat) : CursorInv (s.endStream k) := by
  unfold CursorInv at *
  rw [State.endStream_sp, State.endStream_stream, List.length_take]
  omega

/-- Every part of a step keeps the cursor invariant. -/
theorem cursorInv_kept : KeptByParts CursorInv where
  host _ _ hs := hs
  start _ _ _ _ _ _ _ _ := Nat.zero_le _
  reset _ _ := Nat.zero_le _
  endStream _ k hs := hs.endStream k
  chunk _ _ _ _ hs hf hd e := hs.exec_chunk hf hd e
  shortChunk _ hs _ := hs.consumed le_rfl rfl rfl
  byte _ b hs hr hb := hs.byteEvent b hr hb
  shortByte _ hs _ := hs
  pixel _ hs _ _ := hs.consumed (n := 0) (Nat.zero_le _) (by simp) (by simp)
  runPixel _ hs _ _ := hs

/-- Settles O38: a step consumes only bytes the stream still has, and a short read stops at its end. -/
theorem stepKeepsCursorInv : Obligations.StepKeepsCursorInv := fun _ _ hs h => cursorInv_kept.step hs h

end Sys2Proof.Machine

end

section
/-! PROOF. The state after reset and START, and what an ended decode leaves (10_state.md R24, R25). -/

namespace Sys2Proof.Machine

/-- Settles O2: the columns of R25, read off `State.reset` and off what START loads. -/
theorem resetAndStartColumns : Obligations.ResetAndStartColumns := by
  refine ⟨⟨rfl, State.cacheRead_initial State.reset rfl, rfl, rfl, rfl, rfl⟩, fun w h str s t ht => ?_⟩
  obtain ⟨-, -, -, rfl⟩ := startDecode_next.1 ht
  exact ⟨rfl, State.cacheRead_initial _ rfl, rfl, rfl, total_toNat w h, rfl, rfl, rfl, rfl, fun _ => rfl⟩

/-- Settles O34: the cache is the initial one, no decode runs and no cell is written. -/
theorem resetInvariants : Obligations.ResetInvariants := by
  have hcause : CauseInv State.reset := ⟨fun _ => nofun, fun _ => rfl⟩
  have hlast : LastPixelInv State.reset := fun k => by rcases k with k | k <;> cases k
  exact ⟨Memory.reset_wf, .of_initial rfl, hcause, Nat.le_refl 0, .of_idle rfl rfl, hlast⟩

/-- In DONE and FAILED the block rests (45_end_marker.md R134). -/
theorem State.ended_fsm {s : State} (h : s.ended) : s.fsm = .done ∨ s.fsm = .fail := by
  unfold State.ended State.phase at h
  cases hf : s.fsm with
  | done => exact .inl rfl
  | fail => exact .inr rfl
  | idle | op | litR | litG | litB | litA | luma2 | emit | run | endMark => simp [hf, Fsm.phase] at h

/-- With no host move pending an ended decode takes no step (45_end_marker.md R134). -/
theorem step_of_ended {s : State} (h : s.ended) (hs : s.host = []) : step s = .next s := by
  rw [step_of_host_nil hs, State.blockStep]
  rcases State.ended_fsm h with hf | hf <;> rw [hf]

/-- No pixel is offered once a decode has ended (47_fsm_refinement.md R153). -/
theorem State.pixelOut_of_ended {s : State} (h : s.ended) : s.pixelOut = none := by
  unfold State.pixelOut
  rcases State.ended_fsm h with hf | hf <;> rw [hf]

/-- Settles O51: reset and START overwrite the four, and the outputs and cells of an ended decode do not read them. -/
theorem endedRegistersUnseen : Obligations.EndedRegistersUnseen := by
  intro s p c pos l h s'
  have h' : s'.ended := h
  have houtputs : s'.outputs = s.outputs := by
    unfold State.outputs
    rw [State.pixelOut_of_ended h, State.pixelOut_of_ended h']
    rfl
  exact ⟨houtputs, fun _ => rfl, rfl, fun _ _ _ => rfl, fun hs => ⟨step_of_ended h' hs, step_of_ended h hs⟩⟩

end Sys2Proof.Machine

end

section
/-! PROOF. The pixel buffer as the caller sees it: the finished image, the position of a write, and cells that mean
nothing (20_memory.md R38, R39, R41, R47). -/

namespace Sys2Proof.Machine

/-! ### The finished image -/

/-- A cell holds no pixel of the block's exactly if it is not listed. -/
theorem Memory.read_eq_none_iff (m : Memory) (p : Nat) : Memory.read m p = none ↔ p ∉ m.map Prod.fst := by
  induction m with
  | nil => simp [Memory.read]
  | cons c rest ih =>
    obtain ⟨q, qx⟩ := c
    by_cases h : q = p
    · simp [Memory.read, h]
    · rw [Memory.read, if_neg h, ih]
      simp [Ne.symm h]

/-- Where the cells written are `0 .. n-1`, any other is unwritten (20_memory.md R38). -/
theorem Memory.read_raster_eq_none_iff {m : Memory} {n : Nat} (h : m.map Prod.fst = List.range n) (p : Nat) :
    Memory.read m p = none ↔ n ≤ p := by
  rw [Memory.read_eq_none_iff, h, List.mem_range, Nat.not_lt]

/-- In DONE the cells written are those of the whole image (20_memory.md R38). -/
theorem DecodeInv.raster_of_done {s : State} (h : DecodeInv s) (hd : s.phase = .done) :
    s.buffer.map Prod.fst = List.range (s.width.toNat * s.height.toNat) := by
  obtain ⟨hsize, hprog, hraster⟩ := h
  have hf : s.fsm = .done := (State.ended_fsm (.inl hd)).resolve_right fun e => by
    simp [State.phase, e, Fsm.phase] at hd
  obtain ⟨-, -, htotal⟩ := hsize (by simp [hd])
  obtain ⟨hpos, -⟩ := (progressInv_of_done hf).1 hprog
  rw [hraster (.inr (.inr hd)), hpos, htotal]

/-- Settles O41: the cells written are `0 .. pos-1`, `pos` is `total`, and in DONE cells have their meaning. -/
theorem doneImageComplete : Obligations.DoneImageComplete := by
  intro s hs hd p
  have hread := Memory.read_raster_eq_none_iff (hs.raster_of_done hd) p
  refine ⟨fun hp => ?_, hread.2⟩
  obtain ⟨px, hpx⟩ := Option.ne_none_iff_exists'.1 fun e => Nat.not_le.2 hp (hread.1 e)
  exact ⟨px, hpx, State.hostCell_of_read (State.cellsVoid_eq_false (by simp [hd]) (by simp [hd])) hpx⟩

/-! ### The row and column of a write -/

/-- The pixel offered while `out_valid` is 1 (47_fsm_refinement.md R153). -/
theorem State.pixelOut_of_outValid {s : State} (h : s.fsm.outValid = true) :
    s.pixelOut = some (s.offer (if s.fsm = .emit then s.latches.cur else s.prev)) := by
  unfold State.pixelOut
  cases hf : s.fsm with
  | emit | run => rfl
  | idle | op | litR | litG | litB | litA | luma2 | endMark | done | fail => simp [hf, Fsm.outValid] at h

/-- A pixel is offered in phase CHUNK only (47_fsm_refinement.md R153). -/
theorem State.phase_of_outValid {s : State} (h : s.fsm.outValid = true) : s.phase = .chunk := by
  unfold State.phase
  cases hf : s.fsm with
  | emit | run => rfl
  | idle | op | litR | litG | litB | litA | luma2 | endMark | done | fail => simp [hf, Fsm.outValid] at h

/-- Inside the image the row and column offered are the quotient and the remainder of `pos` by the width, which the
32 bits of the ports hold (20_memory.md R39). -/
theorem State.offer_row_col (px : Pixel) {s : State} (hw : s.width ≠ 0#32)
    (hp : s.pos.toNat < s.width.toNat * s.height.toNat) :
    (s.offer px).row.toNat = s.pos.toNat / s.width.toNat ∧ (s.offer px).col.toNat = s.pos.toNat % s.width.toNat ∧
      s.pos.toNat / s.width.toNat < s.height.toNat ∧ s.pos.toNat % s.width.toNat < s.width.toNat := by
  have hrow : s.pos.toNat / s.width.toNat < s.height.toNat := Nat.div_lt_of_lt_mul hp
  have hcol : s.pos.toNat % s.width.toNat < s.width.toNat := Nat.mod_lt _ (by bv_omega)
  have fits {n : Nat} {x : BitVec 32} (h : n < x.toNat) : (BitVec.ofNat 32 n).toNat = n := by
    rw [BitVec.toNat_ofNat, Nat.mod_eq_of_lt (h.trans x.isLt)]
  exact ⟨fits hrow, fits hcol, hrow, hcol⟩

/-- Settles O50: `total` is the product of the dimensions, so `pos` lies in the image and divides into row and column. -/
theorem offeredPosition : Obligations.OfferedPosition := by
  intro s hs hp hv
  obtain ⟨hw, -, htotal⟩ := hs (by simp [State.phase_of_outValid hv])
  have hin : s.pos.toNat < s.width.toNat * s.height.toNat := htotal ▸ BitVec.lt_def.1 hp
  refine ⟨_, State.pixelOut_of_outValid hv, rfl, ?_⟩
  obtain ⟨erow, ecol, hrow, hcol⟩ := State.offer_row_col (if s.fsm = .emit then s.latches.cur else s.prev) hw hin
  rw [erow, ecol]
  exact ⟨Nat.div_add_mod' _ _, hrow, hcol, rfl⟩

/-! ### What a step can do while no decode runs -/

/-- With no decode running the block takes no step by itself (45_end_marker.md R132, R134). -/
theorem State.blockStep_of_resting {s : State} (h : s.fsm.resting = true) : s.blockStep = .next s := by
  unfold State.blockStep
  cases hf : s.fsm with
  | idle | done | fail => rfl
  | op | litR | litG | litB | litA | luma2 | emit | run | endMark => simp [hf, Fsm.resting] at h

/-- With no decode running the handshake signals do nothing (47_fsm_refinement.md R160). -/
theorem State.handshake_of_resting (i : Inputs) {s : State} (h : s.fsm.resting = true) :
    s.handshake i = .next s := by
  unfold State.handshake
  rw [State.altersStream_of_resting i h]
  cases hf : s.fsm with
  | idle | done | fail => rfl
  | op | litR | litG | litB | litA | luma2 | emit | run | endMark => simp [hf, Fsm.resting] at h

/-- What can become of a state in which no decode runs: it stays, is reset, has its stream cut, or takes a START
(45_end_marker.md R134). -/
def State.RestsOrStarts (s t : State) : Prop :=
  t = s ∨ t = s.hardReset ∨ (∃ k, t = s.endStream k) ∨ ∃ w h str, t = s.startLoad w h str

theorem State.restsOrStarts_of_startDecode {w h : BitVec 32} {str : List Byte} {s t : State}
    (e : startDecode w h str s = .next t) : s.RestsOrStarts t := by
  obtain ⟨-, -, -, ht⟩ := startDecode_next.1 e
  exact .inr (.inr (.inr ⟨w, h, str, ht⟩))

theorem State.restsOrStarts_of_cycle {i : Inputs} {s t : State} (hr : s.fsm.resting = true)
    (h : s.cycle i = .next t) : s.RestsOrStarts t := by
  rcases State.cycle_next h with ht | h | h | h
  · exact .inr (.inl ht)
  · exact State.restsOrStarts_of_startDecode h
  · rw [State.handshake_of_resting i (s := s.endStream 0) hr] at h
    injection h with h
    exact .inr (.inr (.inl ⟨0, h.symm⟩))
  · rw [State.handshake_of_resting i hr] at h
    injection h with h
    exact .inl h.symm

theorem State.restsOrStarts_of_blockStep {s t : State} (hr : s.fsm.resting = true) (h : s.blockStep = .next t) :
    s.RestsOrStarts t := by
  rw [State.blockStep_of_resting hr] at h
  injection h with h
  exact .inl h.symm

theorem State.restsOrStarts_of_hostMove {m : HostMove} {s t : State} (hr : s.fsm.resting = true)
    (h : s.hostMove m = .next t) : s.RestsOrStarts t := by
  cases m with
  | start w hh str => exact State.restsOrStarts_of_startDecode h
  | reset => injection h with h; exact .inr (.inl h.symm)
  | endStream k => injection h with h; exact .inr (.inr (.inl ⟨k, h.symm⟩))
  | cycle i => exact State.restsOrStarts_of_cycle hr h
  | chunk => exact State.restsOrStarts_of_blockStep hr h

/-- With no decode running a step takes the host's next move, if there is one, and does no more than that move. -/
theorem step_of_resting {s t : State} (hr : s.fsm.resting = true) (h : step s = .next t) :
    ∃ moves, State.RestsOrStarts { s with host := moves } t := by
  unfold step State.moveOrStep at h
  split at h
  · exact ⟨s.host, State.restsOrStarts_of_blockStep hr h⟩
  · next m rest _ => exact ⟨rest, State.restsOrStarts_of_hostMove hr h⟩

/-! ### Cells that mean nothing -/

/-- Cells mean nothing only while no decode runs (log 15). -/
theorem State.resting_of_cellsVoid {s : State} (h : s.cellsVoid = true) : s.fsm.resting = true := by
  cases hf : s.fsm with
  | idle | done | fail => rfl
  | op | litR | litG | litB | litA | luma2 | emit | run | endMark =>
    simp [State.cellsVoid, State.phase, hf, Fsm.phase] at h

/-- Cells that mean nothing mean nothing after a reset either (log 15). -/
theorem State.voidAfterReset_of_cellsVoid {s : State} (h : s.cellsVoid = true) : s.voidAfterReset = true := by
  unfold State.cellsVoid at h
  unfold State.voidAfterReset
  cases hp : s.phase with
  | idle => simpa only [hp] using h
  | chunk | endmark | failed => rfl
  | done => simp [hp] at h

/-- While no decode runs, only a START, which counts a new decode, makes cells mean something again. -/
theorem State.RestsOrStarts.cellsVoid {s t : State} (k : s.RestsOrStarts t) (h : s.cellsVoid = true)
    (hd : t.decodes = s.decodes) : t.cellsVoid = true := by
  rcases k with rfl | rfl | ⟨n, rfl⟩ | ⟨w, hh, str, rfl⟩
  · exact h
  · rw [State.cellsVoid_hardReset]
    exact State.voidAfterReset_of_cellsVoid h
  · exact h
  · simp at hd

/-- A reset in a running decode or in FAILED leaves cells that mean nothing (70_reset_and_hazards.md R190; log 15). -/
theorem State.voidAfterReset_of_unfinished {s : State}
    (h : s.phase = .chunk ∨ s.phase = .endmark ∨ s.phase = .failed) : s.voidAfterReset = true := by
  unfold State.voidAfterReset
  rcases h with h | h | h <;> rw [h]

/-- A reset in DONE leaves every cell as it was (log 15). -/
theorem State.hostCell_hardReset_of_done {s : State} (h : s.phase = .done) (p : Nat) :
    s.hardReset.hostCell p = s.hostCell p := by
  have hreset : s.hardReset.cellsVoid = false := by
    rw [State.cellsVoid_hardReset, State.voidAfterReset, h]
  have hnow : s.cellsVoid = false := State.cellsVoid_eq_false (by simp [h]) (by simp [h])
  simp [State.hostCell, hreset, hnow]

/-- Settles O52: where cells mean nothing each is a free value, a reset keeps them so, and no decode runs there, so
nothing but a START can give them a meaning. -/
theorem failedCellsUnspecified : Obligations.FailedCellsUnspecified := by
  refine ⟨fun s p h => ?_, fun s p h => ?_, fun s p h => State.hostCell_hardReset_of_done h p,
    fun s t hv h hd => ?_⟩
  · have hv : s.cellsVoid = true := by rw [State.cellsVoid, h]
    exact State.hostCell_of_void hv p
  · exact State.hostCell_of_void (s := s.hardReset) (State.voidAfterReset_of_unfinished h) p
  · obtain ⟨moves, k⟩ := step_of_resting (State.resting_of_cellsVoid hv) h
    exact k.cellsVoid hv hd

end Sys2Proof.Machine

end

section
/-! PROOF. Fields, words and the map of the 256 control bytes as numbers (30_encoding.md R51, R53, R54). -/

namespace Sys2Proof

/-! ### Fields cut from a byte -/

theorem extractLsb'_toNat_eq_div_mod (start len : Nat) (b : Byte) :
    (b.extractLsb' start len).toNat = b.toNat / 2 ^ start % 2 ^ len := by
  rw [BitVec.extractLsb'_toNat, Nat.shiftRight_eq_div_pow]

theorem indexField_toNat (b : Byte) : (indexField b).toNat = b.toNat % 64 := by
  simp [indexField]
theorem diffRed_toNat (b : Byte) : (diffRed b).toNat = b.toNat / 16 % 4 := extractLsb'_toNat_eq_div_mod 4 2 b
theorem diffGreen_toNat (b : Byte) : (diffGreen b).toNat = b.toNat / 4 % 4 := extractLsb'_toNat_eq_div_mod 2 2 b
theorem diffBlue_toNat (b : Byte) : (diffBlue b).toNat = b.toNat % 4 := by
  simp [diffBlue]
theorem lumaField_toNat (b : Byte) : (lumaField b).toNat = b.toNat % 64 := indexField_toNat b
theorem lumaHigh_toNat (b : Byte) : (lumaHigh b).toNat = b.toNat / 16 % 16 := extractLsb'_toNat_eq_div_mod 4 4 b
theorem lumaLow_toNat (b : Byte) : (lumaLow b).toNat = b.toNat % 16 := by
  simp [lumaLow]
theorem runField_toNat (b : Byte) : (runField b).toNat = b.toNat % 64 := indexField_toNat b

/-! ### Bytes put together from fields -/

theorem append_toNat_eq_mul_add {m n : Nat} (x : BitVec m) (y : BitVec n) :
    (x ++ y).toNat = x.toNat * 2 ^ n + y.toNat := by
  rw [BitVec.toNat_append, ← Nat.shiftLeft_add_eq_or_of_lt y.isLt, Nat.shiftLeft_eq]

theorem indexByte_toNat (idx : BitVec 6) : (0b00#2 ++ idx : Byte).toNat = idx.toNat := by
  simpa using append_toNat_eq_mul_add 0b00#2 idx
theorem diffByte_toNat (fr fg fb : BitVec 2) :
    (0b01#2 ++ fr ++ fg ++ fb : Byte).toNat = 64 + fr.toNat * 16 + fg.toNat * 4 + fb.toNat := by
  have h : (0b01#2 ++ fr ++ fg ++ fb).toNat = ((1 * 2 ^ 2 + fr.toNat) * 2 ^ 2 + fg.toNat) * 2 ^ 2 + fb.toNat := by
    simp only [append_toNat_eq_mul_add]; rfl
  omega
theorem lumaByte_toNat (fdg : BitVec 6) : (0b10#2 ++ fdg : Byte).toNat = 128 + fdg.toNat :=
  append_toNat_eq_mul_add 0b10#2 fdg
theorem lumaSecondByte_toNat (fdrg fdbg : BitVec 4) : (fdrg ++ fdbg : Byte).toNat = fdrg.toNat * 16 + fdbg.toNat :=
  append_toNat_eq_mul_add fdrg fdbg
theorem runByte_toNat (fn : BitVec 6) : (0b11#2 ++ fn : Byte).toNat = 192 + fn.toNat :=
  append_toNat_eq_mul_add 0b11#2 fn

/-! ### The map of the control bytes -/

/-- The ordered dispatch on bit patterns cuts the 256 values into ranges (30_encoding.md R53, R54). -/
theorem kindOf_eq_range (b : Byte) :
    kindOf b =
      if b.toNat ≤ 0x3F then .index else if b.toNat ≤ 0x7F then .diff else if b.toNat ≤ 0xBF then .luma
      else if b.toNat ≤ 0xFD then .run else if b.toNat = 0xFE then .rgb else .rgba := by
  have hb := b.isLt
  have htop := extractLsb'_toNat_eq_div_mod 6 2 b
  simp only [kindOf, ← BitVec.toNat_inj, Config.opRgb, Config.opRgba, htop, BitVec.toNat_ofNat]
  split_ifs <;> try rfl
  all_goals omega

theorem kindOf_eq_index_iff {b : Byte} : kindOf b = .index ↔ b.toNat ≤ 0x3F := by
  rw [kindOf_eq_range]; split_ifs <;> simp <;> omega
theorem kindOf_eq_diff_iff {b : Byte} : kindOf b = .diff ↔ 0x40 ≤ b.toNat ∧ b.toNat ≤ 0x7F := by
  rw [kindOf_eq_range]; split_ifs <;> simp <;> omega
theorem kindOf_eq_luma_iff {b : Byte} : kindOf b = .luma ↔ 0x80 ≤ b.toNat ∧ b.toNat ≤ 0xBF := by
  rw [kindOf_eq_range]; split_ifs <;> simp <;> omega
theorem kindOf_eq_run_iff {b : Byte} : kindOf b = .run ↔ 0xC0 ≤ b.toNat ∧ b.toNat ≤ 0xFD := by
  rw [kindOf_eq_range]; split_ifs <;> simp <;> omega
theorem kindOf_eq_rgb_iff {b : Byte} : kindOf b = .rgb ↔ b = Config.opRgb := by
  rw [kindOf_eq_range, ← BitVec.toNat_inj]; split_ifs <;> simp [Config.opRgb] <;> omega
theorem kindOf_eq_rgba_iff {b : Byte} : kindOf b = .rgba ↔ b = Config.opRgba := by
  have := b.isLt
  rw [kindOf_eq_range, ← BitVec.toNat_inj]; split_ifs <;> simp [Config.opRgba] <;> omega

/-! ### The kind and the fields of a byte put together -/

theorem kindOf_indexByte (idx : BitVec 6) : kindOf (0b00#2 ++ idx) = .index := by
  rw [kindOf_eq_index_iff, indexByte_toNat]; omega
theorem indexField_indexByte (idx : BitVec 6) : indexField (0b00#2 ++ idx) = idx :=
  BitVec.extractLsb'_append_eq_right
theorem kindOf_diffByte (fr fg fb : BitVec 2) : kindOf (0b01#2 ++ fr ++ fg ++ fb) = .diff := by
  rw [kindOf_eq_diff_iff, diffByte_toNat]; omega
theorem diffRed_diffByte (fr fg fb : BitVec 2) : diffRed (0b01#2 ++ fr ++ fg ++ fb) = fr :=
  (BitVec.extractLsb'_append_eq_of_le (by decide)).trans <|
    (BitVec.extractLsb'_append_eq_of_le (by decide)).trans BitVec.extractLsb'_append_eq_right
theorem diffGreen_diffByte (fr fg fb : BitVec 2) : diffGreen (0b01#2 ++ fr ++ fg ++ fb) = fg :=
  (BitVec.extractLsb'_append_eq_of_le (by decide)).trans BitVec.extractLsb'_append_eq_right
theorem diffBlue_diffByte (fr fg fb : BitVec 2) : diffBlue (0b01#2 ++ fr ++ fg ++ fb) = fb :=
  BitVec.extractLsb'_append_eq_right
theorem kindOf_lumaByte (fdg : BitVec 6) : kindOf (0b10#2 ++ fdg) = .luma := by
  rw [kindOf_eq_luma_iff, lumaByte_toNat]; omega
theorem lumaField_lumaByte (fdg : BitVec 6) : lumaField (0b10#2 ++ fdg) = fdg :=
  BitVec.extractLsb'_append_eq_right
theorem lumaHigh_lumaSecondByte (fdrg fdbg : BitVec 4) : lumaHigh (fdrg ++ fdbg) = fdrg :=
  BitVec.extractLsb'_append_eq_left
theorem lumaLow_lumaSecondByte (fdrg fdbg : BitVec 4) : lumaLow (fdrg ++ fdbg) = fdbg :=
  BitVec.extractLsb'_append_eq_right
theorem kindOf_runByte {fn : BitVec 6} (h : fn.toNat ≤ 61) : kindOf (0b11#2 ++ fn) = .run := by
  rw [kindOf_eq_run_iff, runByte_toNat]; omega
theorem runField_runByte (fn : BitVec 6) : runField (0b11#2 ++ fn) = fn :=
  BitVec.extractLsb'_append_eq_right

/-! ### A byte is its kind's bits and its fields -/

theorem indexByte_of_kind {b : Byte} (h : kindOf b = .index) : 0b00#2 ++ indexField b = b := by
  have := kindOf_eq_index_iff.1 h
  apply BitVec.eq_of_toNat_eq
  rw [indexByte_toNat, indexField_toNat]; omega
theorem diffByte_of_kind {b : Byte} (h : kindOf b = .diff) : 0b01#2 ++ diffRed b ++ diffGreen b ++ diffBlue b = b := by
  have := kindOf_eq_diff_iff.1 h
  apply BitVec.eq_of_toNat_eq
  rw [diffByte_toNat, diffRed_toNat, diffGreen_toNat, diffBlue_toNat]; omega
theorem lumaByte_of_kind {b : Byte} (h : kindOf b = .luma) : 0b10#2 ++ lumaField b = b := by
  have := kindOf_eq_luma_iff.1 h
  apply BitVec.eq_of_toNat_eq
  rw [lumaByte_toNat, lumaField_toNat]; omega
theorem lumaSecondByte_of_fields (b : Byte) : lumaHigh b ++ lumaLow b = b := by
  apply BitVec.eq_of_toNat_eq
  rw [lumaSecondByte_toNat, lumaHigh_toNat, lumaLow_toNat]; omega
theorem runByte_of_kind {b : Byte} (h : kindOf b = .run) : 0b11#2 ++ runField b = b := by
  have := kindOf_eq_run_iff.1 h
  apply BitVec.eq_of_toNat_eq
  rw [runByte_toNat, runField_toNat]; omega

/-- A RUN's field is never 62 or 63: those two bytes are the op-codes of RGB and RGBA (30_encoding.md R56). -/
theorem runField_le_of_kind {b : Byte} (h : kindOf b = .run) : (runField b).toNat ≤ 61 := by
  have := kindOf_eq_run_iff.1 h
  rw [runField_toNat]; omega

end Sys2Proof

end

section
/-! PROOF. Decoding and encoding are inverse, and a chunk is rejected only if it is cut (30_encoding.md sections 1
and 4). -/

namespace Sys2Proof

/-! ### What the decoder does for each kind -/

section
variable {b0 : Byte} (rest : List Byte)

theorem decodeChunk_of_index (h : kindOf b0 = .index) :
    decodeChunk (b0 :: rest) = .ok (.index (indexField b0), rest) := by
  simp only [decodeChunk, h]
theorem decodeChunk_of_diff (h : kindOf b0 = .diff) :
    decodeChunk (b0 :: rest) = .ok (.diff (diffRed b0) (diffGreen b0) (diffBlue b0), rest) := by
  simp only [decodeChunk, h]
theorem decodeChunk_of_luma (h : kindOf b0 = .luma) (b1 : Byte) :
    decodeChunk (b0 :: b1 :: rest) = .ok (.luma (lumaField b0) (lumaHigh b1) (lumaLow b1), rest) := by
  simp only [decodeChunk, h]
theorem decodeChunk_of_run (h : kindOf b0 = .run) : decodeChunk (b0 :: rest) = .ok (.run (runField b0), rest) := by
  simp only [decodeChunk, h]
theorem decodeChunk_of_rgb (h : kindOf b0 = .rgb) (r g b : Byte) :
    decodeChunk (b0 :: r :: g :: b :: rest) = .ok (.rgb r g b, rest) := by
  simp only [decodeChunk, h]
theorem decodeChunk_of_rgba (h : kindOf b0 = .rgba) (r g b a : Byte) :
    decodeChunk (b0 :: r :: g :: b :: a :: rest) = .ok (.rgba r g b a, rest) := by
  simp only [decodeChunk, h]

end

/-! ### Decoding an encoded instruction -/

/-- Settles O7: the control byte written has the instruction's kind, and its fields are the operands. -/
theorem decodeEncode : Obligations.DecodeEncode := by
  intro i rest hi
  cases i with
  | rgb r g b => exact decodeChunk_of_rgb (b0 := Config.opRgb) rest rfl r g b
  | rgba r g b a => exact decodeChunk_of_rgba (b0 := Config.opRgba) rest rfl r g b a
  | index idx => exact (decodeChunk_of_index rest (kindOf_indexByte idx)).trans (by rw [indexField_indexByte])
  | diff fr fg fb =>
    refine (decodeChunk_of_diff rest (kindOf_diffByte fr fg fb)).trans ?_
    rw [diffRed_diffByte, diffGreen_diffByte, diffBlue_diffByte]
  | luma fdg fdrg fdbg =>
    refine (decodeChunk_of_luma rest (kindOf_lumaByte fdg) _).trans ?_
    rw [lumaField_lumaByte, lumaHigh_lumaSecondByte, lumaLow_lumaSecondByte]
  | run fn =>
    have hfn : fn.toNat ≤ 61 := by simpa [Instr.wellFormed] using hi
    exact (decodeChunk_of_run rest (kindOf_runByte hfn)).trans (by rw [runField_runByte])
  | endMarker => rfl

/-! ### Encoding a decoded chunk -/

/-- Settles O8: in each kind the control byte is the kind's bits and its fields, and a RUN's field stops at 61. -/
theorem encodeDecode : Obligations.EncodeDecode := by
  intro bytes rest i h
  cases bytes with
  | nil => cases h
  | cons b0 payload =>
    cases hk : kindOf b0 with
    | index =>
      rw [decodeChunk_of_index payload hk] at h
      cases h
      exact ⟨rfl, rfl, congrArg (· :: rest) (indexByte_of_kind hk)⟩
    | diff =>
      rw [decodeChunk_of_diff payload hk] at h
      cases h
      exact ⟨rfl, rfl, congrArg (· :: rest) (diffByte_of_kind hk)⟩
    | run =>
      rw [decodeChunk_of_run payload hk] at h
      cases h
      exact ⟨decide_eq_true (runField_le_of_kind hk), rfl, congrArg (· :: rest) (runByte_of_kind hk)⟩
    | luma =>
      simp only [decodeChunk, hk] at h
      split at h
      · next b1 rest =>
        cases h
        exact ⟨rfl, rfl, congrArg₂ (· :: · :: rest) (lumaByte_of_kind hk) (lumaSecondByte_of_fields b1)⟩
      · cases h
    | rgb =>
      simp only [decodeChunk, hk] at h
      split at h
      · cases h
        exact ⟨rfl, rfl, by rw [kindOf_eq_rgb_iff.1 hk]; rfl⟩
      · cases h
    | rgba =>
      simp only [decodeChunk, hk] at h
      split at h
      · cases h
        exact ⟨rfl, rfl, by rw [kindOf_eq_rgba_iff.1 hk]; rfl⟩
      · cases h

/-! ### Rejection -/

/-- A chunk is rejected exactly if the stream ends before its last byte (30_encoding.md R52, 40_chunk_cycle.md R71). -/
theorem decodeChunk_error_iff_short (b0 : Byte) (payload : List Byte) :
    (∃ e, decodeChunk (b0 :: payload) = .error e) ↔ payload.length + 1 < (kindOf b0).length := by
  cases hk : kindOf b0 with
  | index | diff | run => simp [decodeChunk, hk, Kind.length]
  | luma =>
    rcases payload with _ | ⟨b1, rest⟩ <;> simp [decodeChunk, hk, Kind.length]
  | rgb =>
    rcases payload with _ | ⟨r, _ | ⟨g, _ | ⟨b, rest⟩⟩⟩ <;> simp [decodeChunk, hk, Kind.length]
  | rgba =>
    rcases payload with _ | ⟨r, _ | ⟨g, _ | ⟨b, _ | ⟨a, rest⟩⟩⟩⟩ <;> simp [decodeChunk, hk, Kind.length]

/-- Settles O9: the empty stream has no control byte; any other is cut exactly if it is shorter than its kind. -/
theorem rejectedOnlyIfShort : Obligations.RejectedOnlyIfShort := by
  intro bytes
  cases bytes with
  | nil => exact ⟨fun _ _ _ e => (by cases e), fun _ => ⟨.noControlByte, rfl⟩⟩
  | cons b0 payload =>
    refine (decodeChunk_error_iff_short b0 payload).trans ⟨fun h c rest e => ?_, fun h => h b0 payload rfl⟩
    cases e
    exact h

/-! ### Words written out -/

/-- Settles O6: each word is the encoding of the instruction named (30_encoding.md R51, R59). -/
theorem sampleWords : Obligations.SampleWords :=
  ⟨decodeEncode (.rgb 10#8 20#8 30#8) [] rfl, decodeEncode (.rgba 1#8 2#8 3#8 4#8) [] rfl,
    decodeEncode (.index 53#6) [] rfl, decodeEncode (.diff 0#2 3#2 2#2) [] rfl,
    decodeEncode (.luma 37#6 3#4 12#4) [] rfl, decodeEncode (.run 4#6) [] rfl, decodeEncode .endMarker [] rfl⟩

end Sys2Proof

end

section
/-! PROOF. No control byte is illegal: each selects its kind, and BAD_OPCODE is never raised (30_encoding.md R54,
60_exceptions.md R171). -/

namespace Sys2Proof.Machine

/-! ### The causes a step can raise -/

theorem State.runChunk_cause_cases (fn : BitVec 6) (s : State) :
    (s.runChunk fn).cause = .reservedRun ∨ (s.runChunk fn).cause = .runOverflow ∨ (s.runChunk fn).cause = s.cause := by
  rcases s.runChunk_cases fn with ⟨-, e⟩ | ⟨-, -, e⟩ | ⟨-, -, e⟩ <;> rw [e]
  · exact .inl rfl
  · exact .inr (.inl rfl)
  · exact .inr (.inr rfl)

/-- The op-code parser raises only the two causes of RUN (47_fsm_refinement.md R155). -/
theorem State.opByte_cause_cases (b : Byte) (s : State) :
    (s.opByte b).cause = .reservedRun ∨ (s.opByte b).cause = .runOverflow ∨ (s.opByte b).cause = s.cause := by
  unfold State.opByte
  cases kindOf b with
  | rgb | rgba | index | diff | luma => exact .inr (.inr rfl)
  | run =>
    dsimp only
    split
    · exact .inl rfl
    · split
      · exact .inr (.inl rfl)
      · exact .inr (.inr rfl)

/-- What `cause` can be after a byte event (47_fsm_refinement.md R155 to R159). -/
theorem State.byteEvent_cause_mem (b : Byte) (s : State) :
    (s.byteEvent b).cause ∈ [s.cause, .reservedRun, .runOverflow, .badEndMarker] := by
  unfold State.byteEvent
  cases s.fsm with
  | op => rcases (s.consume 1).opByte_cause_cases b with e | e | e <;> simp [e]
  | litB => dsimp only [State.litBByte]; split <;> exact List.mem_cons_self
  | endMark => rcases s.endByte_cases b with ⟨-, -, e⟩ | ⟨-, -, e⟩ | ⟨-, e⟩ <;> simp [e]
  | idle | litR | litG | litA | luma2 | emit | run | done | fail => exact List.mem_cons_self

/-- A chunk raises no BAD_OPCODE (60_exceptions.md R171). -/
theorem exec_chunk_cause_ne_badOpcode {i : Instr} {s t : State} (hf : s.fsm = .op) (hs : s.cause ≠ .badOpcode)
    (h : exec i s = .next t) : t.cause ≠ .badOpcode := by
  rcases exec_next h with ⟨-, -, l, px, upd, -, rfl⟩ | ⟨-, -, fn, -, rfl⟩ | ⟨hf', -⟩
  · simpa using hs
  · rcases (s.consume 1).runChunk_cause_cases fn with e | e | e <;> simp [e, hs]
  · simp [hf] at hf'

/-- Every part of a step leaves `cause`, clears it, or raises one of the other causes. -/
theorem notBadOpcode_kept : KeptByParts (fun s => s.cause ≠ .badOpcode) where
  host _ _ hs := hs
  start _ _ _ _ _ _ _ _ := nofun
  reset _ _ := nofun
  endStream _ _ hs := hs
  chunk _ _ _ _ hs hf _ e := exec_chunk_cause_ne_badOpcode hf hs e
  shortChunk _ _ _ := nofun
  byte s b hs _ _ e := by
    have hmem := s.byteEvent_cause_mem b
    simp [e, Ne.symm hs] at hmem
  shortByte _ _ _ := nofun
  pixel _ hs _ _ := by simpa using hs
  runPixel _ hs _ _ := hs

/-- Settles O5: the kinds' ranges and fields are read off the numbers, and no part of a step raises BAD_OPCODE. -/
theorem controlByteMap : Obligations.ControlByteMap := by
  refine ⟨fun _ _ hs h => notBadOpcode_kept.step hs h, fun b => ⟨fun h => ?_, fun h => ?_, fun h => ?_, fun h => ?_,
    fun h => ?_, fun h => ?_⟩⟩
  · refine ⟨kindOf_eq_index_iff.2 h, ?_⟩
    rw [indexField_toNat]; omega
  · refine ⟨kindOf_eq_diff_iff.2 h, ?_⟩
    rw [diffRed_toNat, diffGreen_toNat, diffBlue_toNat]; omega
  · refine ⟨kindOf_eq_luma_iff.2 h, ?_⟩
    rw [lumaField_toNat]; omega
  · have hk := kindOf_eq_run_iff.2 h
    have hfield := runField_le_of_kind hk
    refine ⟨hk, ?_, hfield, ?_⟩
    · rw [runField_toNat]; omega
    · unfold runLength; omega
  · exact kindOf_eq_rgb_iff.2 (BitVec.eq_of_toNat_eq h)
  · exact kindOf_eq_rgba_iff.2 (BitVec.eq_of_toNat_eq h)

end Sys2Proof.Machine

end

section
/-! PROOF. The assembler: a line carries true deltas and run lengths, and its operands' ranges are those of
the fields (30_encoding.md R55, R60). -/

namespace Sys2Proof.Machine

@[simp] theorem within_eq_true {lo hi x : Int} : within lo hi x = true ↔ lo ≤ x ∧ x ≤ hi := decide_eq_true_iff

theorem within_toNat_of_byte (b : Byte) : within 0 255 b.toNat = true := by
  rw [within_eq_true]; omega

theorem ofNat_eq_of_toNat {b : Byte} {n : Nat} (h : n = b.toNat) : BitVec.ofNat 8 n = b := by
  rw [h, BitVec.ofNat_toNat, BitVec.setWidth_eq]

theorem ofInt_eq_of_toNat {b : Byte} {x : Int} (h : x = b.toNat) : BitVec.ofInt 8 x = b := by
  rw [h, BitVec.ofInt_natCast, ofNat_eq_of_toNat rfl]

/-! ### The lines of the instructions with a bias (30_encoding.md R55) -/

theorem assemble_diff (fr fg fb : BitVec 2) :
    assemble (.diff (diffDelta fr) (diffDelta fg) (diffDelta fb)) = some [0b01#2 ++ fr ++ fg ++ fb] := by
  refine (if_pos ?_).trans (congrArg (some [·]) (ofInt_eq_of_toNat ?_))
  · simp only [Bool.and_eq_true, within_eq_true, diffDelta]; omega
  · rw [diffByte_toNat, diffDelta, diffDelta, diffDelta]; omega

theorem assemble_luma (fdg : BitVec 6) (fdrg fdbg : BitVec 4) :
    assemble (.luma (lumaGreen fdg) (lumaRelative fdrg) (lumaRelative fdbg)) =
      some [0b10#2 ++ fdg, fdrg ++ fdbg] := by
  refine (if_pos ?_).trans (congrArg₂ (some [·, ·]) (ofInt_eq_of_toNat ?_) (ofInt_eq_of_toNat ?_))
  · simp only [Bool.and_eq_true, within_eq_true, lumaGreen, lumaRelative]; omega
  · rw [lumaByte_toNat, lumaGreen]; omega
  · rw [lumaSecondByte_toNat, lumaRelative, lumaRelative]; omega

theorem assemble_run {fn : BitVec 6} (h : fn.toNat ≤ 61) : assemble (.run (runLength fn)) = some [0b11#2 ++ fn] := by
  refine (if_pos ?_).trans (congrArg (some [·]) (ofNat_eq_of_toNat ?_))
  · rw [within_eq_true, runLength]; omega
  · rw [runByte_toNat, runLength]; omega

/-- The line of a well-formed instruction assembles to the instruction's bytes (30_encoding.md R60). -/
theorem assemble_disassemble (i : Instr) (hi : i.wellFormed = true) : assemble (disassemble i) = some (encode i) := by
  cases i with
  | rgb r g b => simp [disassemble, assemble, encode, Config.opRgb, within_toNat_of_byte]
  | rgba r g b a => simp [disassemble, assemble, encode, Config.opRgba, within_toNat_of_byte]
  | index idx =>
    refine (if_pos ?_).trans (congrArg (some [·]) (ofNat_eq_of_toNat ?_))
    · rw [within_eq_true]; omega
    · rw [indexByte_toNat]
  | diff fr fg fb => exact assemble_diff fr fg fb
  | luma fdg fdrg fdbg => exact assemble_luma fdg fdrg fdbg
  | run fn => exact assemble_run (of_decide_eq_true hi)
  | endMarker => rfl

/-- Settles O10: a biased field admits just the range of its operand, so a line in range is the encoding and any other
is refused. -/
theorem assembleDisassemble : Obligations.AssembleDisassemble := by
  refine ⟨assemble_disassemble, fun n h => if_neg ?_, fun n h => if_neg ?_, fun dr dg db h => if_neg ?_,
    fun dg drg dbg h => if_neg ?_, fun r g b h => if_neg ?_, fun r g b a h => if_neg ?_, fun vs h => if_pos ?_,
    fun vs h => if_neg ?_, rfl⟩
  · simp only [within_eq_true]; omega
  · simp only [within_eq_true]; omega
  · simp only [Bool.and_eq_true, within_eq_true]; omega
  · simp only [Bool.and_eq_true, within_eq_true]; omega
  · simp only [Bool.and_eq_true, within_eq_true]; omega
  · simp only [Bool.and_eq_true, within_eq_true]; omega
  · simp only [List.all_eq_true, within_eq_true]
    exact fun v hv => ⟨by omega, by exact_mod_cast h v hv⟩
  · obtain ⟨v, hv, hlt⟩ := h
    simp only [List.all_eq_true, within_eq_true]
    intro hall
    have := hall v hv
    omega

end Sys2Proof.Machine

end

section
/-! PROOF. What a chunk step can do, and that every decode ends (40_chunk_cycle.md R70, R71, R78, R81). -/

namespace Sys2Proof.Machine

/-! ### The step in the states it starts from -/

/-- At a chunk boundary the block runs a chunk (40_chunk_cycle.md R70). -/
theorem State.blockStep_of_op {s : State} (hf : s.fsm = .op) : s.blockStep = s.stepChunk := by
  rw [State.blockStep, hf]

/-- In ENDMARK the block runs END, selected by the phase (30_encoding.md R59). -/
theorem State.blockStep_of_endMark {s : State} (hf : s.fsm = .endMark) : s.blockStep = exec .endMarker s := by
  rw [State.blockStep, hf]; rfl

/-! ### A chunk step answers a next state -/

/-- At a chunk boundary with a cell left every chunk answers a next state (40_chunk_cycle.md R70). -/
theorem exec_chunk_answers {i : Instr} {s : State} (hi : i.readAs = .chunk) (hf : s.fsm = .op) (hp : s.pos < s.total) :
    ∃ t, exec i s = .next t := by
  cases i with
  | endMarker => cases hi
  | rgb | rgba | index | diff | luma | run => exact ⟨_, atChunk_of hf hp⟩

/-- At a chunk boundary with a cell left, a step runs a chunk or is a short read (40_chunk_cycle.md R70, R71). -/
theorem State.stepChunk_answers {s : State} (hf : s.fsm = .op) (hp : s.pos < s.total) :
    ∃ t, s.stepChunk = .next t := by
  unfold State.stepChunk decode
  cases hd : decodeChunk s.bytesLeft with
  | error e => exact ⟨_, rfl⟩
  | ok p =>
    obtain ⟨-, hi, -⟩ := encodeDecode _ _ _ hd
    exact exec_chunk_answers hi hf hp

/-! ### What a chunk step can do -/

/-- The bytes and latches of a chunk do not matter to the cells it writes. -/
theorem WritesCells.of_fetched {n m : Nat} {l : Latches} {px : Pixel} {s t : State}
    (k : WritesCells n px { s with sp := m, latches := l } t) : WritesCells n px s t :=
  ⟨k.width, k.height, k.total, k.pos, k.fits, k.buffer⟩

/-- A chunk that completes: it consumes 1 to 5 bytes, writes its pixel to 1 to 62 cells that are left, and goes on to the
next chunk or to the end marker (40_chunk_cycle.md R70, R78, R81). -/
structure CompletesChunk (n : Nat) (s t : State) : Prop where
  sp_lt : s.sp < t.sp
  sp_le : t.sp ≤ s.sp + 5
  pos : 0 < n
  le : n ≤ 62
  fits : s.pos.toNat + n ≤ s.total.toNat
  writes : WritesCells n t.prev s t
  fsm : t.fsm = nextFsm t.pos t.total

/-- A chunk is 1 to 5 bytes long (30_encoding.md R52). -/
theorem length_of_chunk {i : Instr} (hi : i.readAs = .chunk) : 0 < i.length ∧ i.length ≤ 5 := by
  cases i with
  | endMarker => cases hi
  | rgb | rgba | index | diff | luma | run => simp [Instr.length]

/-- A one-pixel chunk completes (40_chunk_cycle.md R70). -/
theorem EmitsAfter.completes {n : Nat} {s t : State} (h : EmitsAfter n s t) (hp : s.pos < s.total) (hn : 0 < n)
    (hn5 : n ≤ 5) : CompletesChunk 1 s t := by
  obtain ⟨l, px, upd, -, rfl⟩ := h
  have hfits : s.pos.toNat + 1 ≤ s.total.toNat := by bv_omega
  have hwrites : WritesCells 1 px s _ := .of_fetched (m := s.sp + n) (l := l) (.of_emit px upd hp)
  exact ⟨by simp [hn], by simp [hn5], Nat.one_pos, by decide, hfits, hwrites, by simp⟩

/-- A run that fits completes; any other raises once its control byte is consumed (44_run_chunk.md R120). -/
theorem State.runChunk_completes (fn : BitVec 6) (s : State) :
    ((s.consume 1).runChunk fn).fsm = .fail ∨ CompletesChunk (runLength fn) s ((s.consume 1).runChunk fn) := by
  rcases (s.consume 1).runChunk_cases fn with ⟨-, e⟩ | ⟨-, -, e⟩ | ⟨hfn, hc, e⟩ <;> rw [e]
  · exact .inl rfl
  · exact .inl rfl
  · have hfits : s.pos.toNat + runLength fn ≤ s.total.toNat := by
      simp only [State.cellsLeft, State.consume_total, State.consume_pos, runLength] at hc ⊢
      omega
    exact .inr ⟨Nat.lt_succ_self _, Nat.add_le_add_left (by decide) _, Nat.succ_pos _, Nat.succ_le_succ hfn, hfits,
      .of_fetched (.of_runWrite (s := s.consume 1) 0#6 hfits), rfl⟩

/-- A chunk step raises a violation or completes, and never moves `sp` back (40_chunk_cycle.md R81). -/
theorem State.stepChunk_completes {s t : State} (hf : s.fsm = .op) (h : s.stepChunk = .next t) :
    (t.fsm = .fail ∧ s.sp ≤ t.sp) ∨ ∃ n, CompletesChunk n s t := by
  rcases State.stepChunk_next h with ⟨i, rest, hd, e⟩ | ⟨-, -, rfl⟩
  · rcases exec_next e with ⟨-, hp, k⟩ | ⟨-, -, fn, -, rfl⟩ | ⟨hf', -⟩
    · obtain ⟨-, hi, -⟩ := encodeDecode _ _ _ hd
      obtain ⟨hpos, hle⟩ := length_of_chunk hi
      exact .inr ⟨1, k.completes hp hpos hle⟩
    · exact (s.runChunk_completes fn).imp (fun k => ⟨k, by simp⟩) fun k => ⟨_, k⟩
    · simp [hf] at hf'
  · exact .inl ⟨rfl, Nat.le_add_right _ _⟩

/-! ### The end of a decode -/

/-- Enough bytes for what is left of the marker decide it: DONE, or FAILED at the first defect (45_end_marker.md R131). -/
theorem State.endBytes_ended (n : Nat) (s : State) (hc : s.latches.endcnt.toNat ≤ 7)
    (hn : 8 ≤ s.latches.endcnt.toNat + n) : (s.endBytes n).ended := by
  induction n generalizing s with
  | zero => omega
  | succ k ih =>
    simp only [State.endBytes]
    split
    · exact .inr rfl
    · next b _ =>
      rcases s.endByte_cases b with ⟨-, -, e⟩ | ⟨-, hne, e⟩ | ⟨-, e⟩ <;> rw [e]
      · exact .inl rfl
      · have hcnt : (s.latches.endcnt + 1#4).toNat = s.latches.endcnt.toNat + 1 := by bv_omega
        refine ih _ (hcnt.trans_le ?_) (hcnt ▸ ?_)
        · bv_omega
        · omega
      · exact .inr rfl

/-- END ends a decode whose counters agree (45_end_marker.md R131). -/
theorem DecodeInv.endBytes_ended {s : State} (h : DecodeInv s) (hf : s.fsm = .endMark) : (s.endBytes 8).ended := by
  obtain ⟨-, hprog, -⟩ := h
  obtain ⟨-, hcnt⟩ := (progressInv_of_endMark hf).1 hprog
  exact State.endBytes_ended 8 s hcnt (Nat.le_add_left _ _)

/-- A decode with `n` steps to go: it has ended, or a chunk or the end marker is due and there is a step for each cell
left and one for the marker (40_chunk_cycle.md R81). -/
def EndsWithin (n : Nat) (s : State) : Prop :=
  s.ended ∨ (s.fsm = .op ∨ s.fsm = .endMark) ∧ s.cellsLeft < n

/-- A chunk that completes leaves fewer cells, and the next chunk or the end marker is due. -/
theorem CompletesChunk.endsWithin {m n : Nat} {s t : State} (k : CompletesChunk m s t) (hn : s.cellsLeft < n + 1) :
    EndsWithin n t := by
  refine .inr ⟨?_, ?_⟩
  · rw [k.fsm, nextFsm]
    split
    · exact .inr rfl
    · exact .inl rfl
  · have hm := k.pos
    have hfits := k.fits
    unfold State.cellsLeft at *
    rw [k.writes.total, k.writes.pos_toNat]
    omega

/-- One step brings a decode one step nearer to its end. -/
theorem EndsWithin.step {n : Nat} {s : State} (h : EndsWithin (n + 1) s) (hs : s.host = []) (hd : DecodeInv s) :
    ∃ t, step s = .next t ∧ EndsWithin n t := by
  rcases h with he | ⟨hf | hf, hn⟩
  · exact ⟨s, step_of_ended he hs, .inl he⟩
  · obtain ⟨hlt, -⟩ := hd.chunkDue (congrArg Fsm.phase hf) (by simp [hf])
    obtain ⟨t, ht⟩ := State.stepChunk_answers hf hlt
    refine ⟨t, by rw [step_of_host_nil hs, State.blockStep_of_op hf, ht], ?_⟩
    rcases State.stepChunk_completes hf ht with ⟨hfail, -⟩ | ⟨m, k⟩
    · exact .inl (.inr (congrArg Fsm.phase hfail))
    · exact k.endsWithin hn
  · refine ⟨s.endBytes 8, ?_, .inl (hd.endBytes_ended hf)⟩
    rw [step_of_host_nil hs, State.blockStep_of_endMark hf]
    exact execEndMarker_next.2 ⟨hf, rfl⟩

/-- A decode near enough to its end runs to it. -/
theorem EndsWithin.run (n : Nat) {s : State} (h : EndsWithin n s) (hs : s.host = []) (hd : DecodeInv s) :
    ∃ t, core.run n s = .next t ∧ t.ended := by
  induction n generalizing s with
  | zero => exact ⟨s, rfl, h.resolve_right fun k => Nat.not_lt_zero _ k.2⟩
  | succ k ih =>
    obtain ⟨u, hu, hnear⟩ := h.step hs hd
    rw [run_next hu]
    exact ih hnear (State.blockStep_host hs (step_of_host_nil hs ▸ hu)) (decodeInv_kept.step hd hu)

/-- Settles O33: each chunk fills at least one of the cells left or fails, and END decides the marker in one step. -/
theorem decodeEnds : Obligations.DecodeEnds := by
  intro s hs hd hf
  exact EndsWithin.run _ (.inr ⟨.inl hf, Nat.lt_succ_self _⟩) hs hd

end Sys2Proof.Machine

end

section
/-! PROOF. The cache hash and the channel arithmetic as numbers (40_chunk_cycle.md R75, R77). -/

namespace Sys2Proof.Machine

/-! ### The hash -/

/-- The hash sum in the integers, modulus last (40_chunk_cycle.md R75). -/
theorem pixelHash_toNat (p : Pixel) :
    (pixelHash p).toNat = (p.r.toNat * 3 + p.g.toNat * 5 + p.b.toNat * 7 + p.a.toNat * 11) % 64 :=
  BitVec.toNat_ofNat _ 6

/-- Channels reduced modulo 64 first give the same hash (40_chunk_cycle.md R75). -/
theorem pixelHash_toNat_reduced (p : Pixel) : (pixelHash p).toNat =
    (p.r.toNat % 64 * 3 + p.g.toNat % 64 * 5 + p.b.toNat % 64 * 7 + p.a.toNat % 64 * 11) % 64 := by
  rw [pixelHash_toNat]; omega

/-- A wrapping 8-bit accumulator keeps the low 6 bits (40_chunk_cycle.md R75). -/
theorem pixelHash_eq_byteSum (p : Pixel) :
    pixelHash p = (p.r * 3#8 + p.g * 5#8 + p.b * 7#8 + p.a * 11#8).setWidth 6 := by
  apply BitVec.eq_of_toNat_eq
  rw [pixelHash_toNat]
  simp only [BitVec.toNat_setWidth, BitVec.toNat_add, BitVec.toNat_mul, BitVec.toNat_ofNat]
  omega

/-- A wrapping 6-bit accumulator suffices (40_chunk_cycle.md R75). -/
theorem pixelHash_eq_sixBitSum (p : Pixel) : pixelHash p =
    p.r.setWidth 6 * 3#6 + p.g.setWidth 6 * 5#6 + p.b.setWidth 6 * 7#6 + p.a.setWidth 6 * 11#6 := by
  apply BitVec.eq_of_toNat_eq
  rw [pixelHash_toNat]
  simp only [BitVec.toNat_setWidth, BitVec.toNat_add, BitVec.toNat_mul, BitVec.toNat_ofNat]
  omega

/-- Settles O11: 64 divides `2 ^ n` for every accumulator of `n ≥ 6` bits, so wrapping in it does not change the hash. -/
theorem hashRule : Obligations.HashRule := by
  refine ⟨fun p => ⟨pixelHash_toNat p, by omega, pixelHash_toNat_reduced p, pixelHash_eq_byteSum p,
    pixelHash_eq_sixBitSum p, fun n hn => ?_⟩, by decide, by decide, by decide, by decide, by decide⟩
  have hdvd : 64 ∣ 2 ^ n := Nat.pow_dvd_pow 2 hn
  rw [pixelHash_toNat, Nat.mod_mod_of_dvd _ hdvd]

/-! ### The channel arithmetic -/

/-- A delta is added with the floor modulus (40_chunk_cycle.md R77). -/
theorem addDelta_toNat (c : Byte) (d : Int) : ((addDelta c d).toNat : Int) = (c.toNat + d) % 256 := by
  rw [addDelta, BitVec.toNat_ofInt]; omega

/-- A byte with the sum's residue modulo 256 is the sum: any wrapping form of an addition gives the same. -/
theorem addDelta_eq_of_emod {c x : Byte} {d : Int} (h : (c.toNat + d) % 256 = x.toNat) : addDelta c d = x := by
  have := addDelta_toNat c d
  apply BitVec.eq_of_toNat_eq
  omega

/-- Settles O12: two bytes with one residue modulo 256 are equal, and 254, 224 and 216 are -2, -32 and -40 there. -/
theorem channelArithmetic : Obligations.ChannelArithmetic := by
  refine ⟨addDelta_toNat, fun c d e => ?_, fun c f => addDelta_eq_of_emod ?_, fun c f => addDelta_eq_of_emod ?_,
    fun c f g => addDelta_eq_of_emod ?_, by decide, by decide, by decide⟩
  · refine addDelta_eq_of_emod ?_
    rw [addDelta_toNat, addDelta_toNat]; omega
  · simp only [diffDelta, BitVec.toNat_add, BitVec.toNat_setWidth, BitVec.toNat_ofNat]; omega
  · simp only [lumaGreen, BitVec.toNat_add, BitVec.toNat_setWidth, BitVec.toNat_ofNat]; omega
  · simp only [lumaGreen, lumaRelative, BitVec.toNat_add, BitVec.toNat_setWidth, BitVec.toNat_ofNat]; omega

end Sys2Proof.Machine

end

section
/-! PROOF. The step of the block: what it runs, short reads, the order of the phases and the progress of a chunk
(40_chunk_cycle.md sections 1, 5 and 6). -/

namespace Sys2Proof.Machine

/-! ### What a step runs -/

/-- Inside a chunk left unfinished the block takes its next event (log 1). -/
theorem State.blockStep_of_inChunk {s : State} (hp : s.phase = .chunk) (hf : s.fsm ≠ .op) :
    s.blockStep = s.event := by
  unfold State.phase at hp
  unfold State.blockStep
  cases hs : s.fsm with
  | op => exact absurd hs hf
  | litR | litG | litB | litA | luma2 | emit | run => rfl
  | idle | endMark | done | fail => simp [hs, Fsm.phase] at hp

/-- Settles O26: `step` takes the host's move or `blockStep`, and `fsm` and the decoder select the instruction. -/
theorem stepRunsDecoded : Obligations.StepRunsDecoded := by
  refine ⟨fun s i rest hs hf hd => ?_, fun s hs hf => ?_, fun s hs hf => ?_, fun s m rest hs => ?_⟩
  · rw [step_of_host_nil hs, State.blockStep_of_op hf, State.stepChunk, hd]
  · rw [step_of_host_nil hs, State.blockStep_of_endMark hf]
  · rw [step_of_host_nil hs]
    apply State.blockStep_of_inChunk <;> rcases hf with h | h | h | h | h | h | h <;> simp [State.phase, h, Fsm.phase]
  · rw [step, State.moveOrStep, hs]

/-! ### Short reads -/

/-- A short read takes `sp` to the end of the stream and enters FAILED, and does nothing else (60_exceptions.md R171,
R172). -/
theorem State.raiseShortRead_eq {s : State} (h : CursorInv s) :
    s.raiseShortRead = { s with sp := s.stream.length, cause := .shortRead, fsm := .fail } := by
  have hsp : s.sp + s.bytesLeft.length = s.stream.length := by
    rw [State.bytesLeft, List.length_drop, Nat.add_sub_cancel' h]
  rw [← hsp]
  rfl

/-- Settles O27: bytes too few for their chunk are what the decoder rejects, and a rejected chunk is a short read. -/
theorem shortRead : Obligations.ShortRead := by
  intro s hs hf hsp hshort
  obtain ⟨e, he⟩ := (rejectedOnlyIfShort s.bytesLeft).2 hshort
  rw [step_of_host_nil hs, State.blockStep_of_op hf, State.stepChunk, decode, he, ← State.raiseShortRead_eq hsp]

/-! ### The order of the phases -/

/-- The phases a step of the block may go through (40_chunk_cycle.md R82): `q` is the phase after `p`. -/
def Phase.Follows (q p : Phase) : Prop :=
  q = p ∨ (p = .chunk ∧ q = .endmark) ∨ (p = .endmark ∧ q = .done) ∨ ((p = .chunk ∨ p = .endmark) ∧ q = .failed)

/-- A step from `s` to `t` goes along the control flow, in the phase and in the stream (40_chunk_cycle.md R82). -/
def Advances (s t : State) : Prop := t.phase.Follows s.phase ∧ s.sp ≤ t.sp

/-- After the cells of a chunk the next chunk or the end marker is due (40_chunk_cycle.md R78). -/
theorem nextFsm_follows (p total : BitVec 64) : (nextFsm p total).phase.Follows .chunk := by
  unfold nextFsm
  split
  · exact .inr (.inl ⟨rfl, rfl⟩)
  · exact .inl rfl

/-- A violation is raised in CHUNK or ENDMARK, where bytes are taken (60_exceptions.md R172). -/
theorem Advances.of_fail {s t : State} (hr : s.fsm.inReady = true) (hf : t.fsm = .fail) (hsp : s.sp ≤ t.sp) :
    Advances s t :=
  ⟨.inr (.inr (.inr ⟨State.phase_of_inReady hr, congrArg Fsm.phase hf⟩)), hsp⟩

/-- A chunk that completes leads to the next chunk or to the end marker. -/
theorem CompletesChunk.advances {n : Nat} {s t : State} (k : CompletesChunk n s t) (hf : s.fsm = .op) :
    Advances s t := by
  refine ⟨?_, k.sp_lt.le⟩
  rw [State.phase, State.phase, k.fsm, hf]
  exact nextFsm_follows _ _

theorem State.stepChunk_advances {s t : State} (hf : s.fsm = .op) (h : s.stepChunk = .next t) : Advances s t := by
  rcases State.stepChunk_completes hf h with ⟨hfail, hsp⟩ | ⟨n, k⟩
  · exact .of_fail (congrArg Fsm.inReady hf) hfail hsp
  · exact k.advances hf

theorem State.byteEvent_advances (b : Byte) {s : State} (hr : s.fsm.inReady = true) : Advances s (s.byteEvent b) := by
  have hsp : s.sp ≤ (s.byteEvent b).sp := by rw [s.byteEvent_sp b hr]; exact Nat.le_succ _
  rcases s.byteEvent_cases b hr with ⟨hp, -, k⟩ | ⟨hf, fn, -, -, e⟩ | ⟨hf, e, -, hd⟩ | ⟨c, -, e⟩
  · exact ⟨.inl (k.phase.trans hp.symm), hsp⟩
  · exact ⟨.inl (by rw [e, State.phase, State.phase, hf]; rfl), hsp⟩
  · refine ⟨?_, hsp⟩
    rw [e, State.phase, State.phase, hf]
    rcases hd with ⟨hd, -⟩ | ⟨hm, -, -⟩
    · rw [hd]; exact .inr (.inr (.inl ⟨rfl, rfl⟩))
    · rw [hm]; exact .inl rfl
  · exact .of_fail hr (by rw [e]; rfl) hsp

theorem State.pixelEvent_advances {s t : State} (h : s.pixelEvent = .next t) : Advances s t := by
  rcases State.pixelEvent_next h with ⟨hf, -, rfl⟩ | ⟨hf, -, rfl⟩ | ⟨-, rfl⟩
  · refine ⟨?_, by simp⟩
    rw [State.phase, State.phase, State.commitPending_fsm, hf]
    exact nextFsm_follows _ _
  · refine ⟨?_, by simp⟩
    rw [State.phase, State.phase, State.runPixel_fsm, hf]
    split
    · exact nextFsm_follows _ _
    · exact .inl rfl
  · exact ⟨.inl rfl, le_rfl⟩

theorem State.event_advances {s t : State} (h : s.event = .next t) : Advances s t := by
  rcases State.event_next h with ⟨b, hr, -, rfl⟩ | ⟨hr, -, rfl⟩ | h
  · exact State.byteEvent_advances b hr
  · exact .of_fail hr rfl le_rfl
  · exact State.pixelEvent_advances h

/-- Each byte of the marker is met in ENDMARK, so END leads to ENDMARK, DONE or FAILED (45_end_marker.md R131). -/
theorem State.endBytes_advances (n : Nat) {s : State} (hf : s.fsm = .endMark) : Advances s (s.endBytes n) := by
  have hphase {u : State} (h : u.fsm = .endMark) : u.phase = s.phase := by rw [State.phase, State.phase, h, hf]
  have hready {u : State} (h : u.fsm = .endMark) : u.fsm.inReady = true := congrArg Fsm.inReady h
  refine State.endBytes_keeps (P := Advances s) (fun u b ⟨_, hsp⟩ hu _ => ?_) (fun u ⟨_, hsp⟩ _ _ => ?_) n s
    ⟨.inl rfl, le_rfl⟩ hf
  · obtain ⟨hfollows, hsp'⟩ : Advances u (u.endByte b) := by
      simpa only [State.byteEvent, hu] using State.byteEvent_advances b (hready hu)
    exact ⟨hphase hu ▸ hfollows, hsp.trans hsp'⟩
  · exact .of_fail (hready hf) rfl hsp

/-- Settles O31: a chunk, an event and END each go along the control flow, and consume bytes or none. -/
theorem phaseOrder : Obligations.PhaseOrder := by
  intro s t hs h
  change Advances s t
  rw [step_of_host_nil hs] at h
  rcases State.blockStep_next h with ⟨-, rfl⟩ | ⟨hf, h⟩ | ⟨hf, rfl⟩ | h
  · exact ⟨.inl rfl, le_rfl⟩
  · exact State.stepChunk_advances hf h
  · exact State.endBytes_advances 8 hf
  · exact State.event_advances h

/-! ### The progress of a chunk -/

/-- Settles O32: a chunk step that does not fail completes its chunk. -/
theorem chunkProgress : Obligations.ChunkProgress := by
  intro s t hs hf h ht
  rw [step_of_host_nil hs, State.blockStep_of_op hf] at h
  rcases State.stepChunk_completes hf h with ⟨hfail, -⟩ | ⟨n, k⟩
  · exact absurd (congrArg Fsm.phase hfail) ht
  · rw [k.writes.pos_toNat]
    exact ⟨k.sp_lt, k.sp_le, Nat.add_le_add_left k.pos _, Nat.add_le_add_left k.le _⟩

end Sys2Proof.Machine

end

section
/-! PROOF. `prev` is the pixel of the last cell written (40_chunk_cycle.md R74). -/

namespace Sys2Proof.Machine

/-- After a write of cells with `prev` the last of them holds it (40_chunk_cycle.md R74). -/
theorem WritesCells.lastPixelInv {n : Nat} {s t : State} (k : WritesCells n t.prev s t) (hn : 0 < n) :
    LastPixelInv t := by
  intro _
  have hpos := k.pos_toNat
  rw [if_neg (by bv_omega), k.buffer, Memory.read_fill, if_pos (by omega)]

/-- A violation ends the decode, and the invariant asks nothing more. -/
theorem LastPixelInv.of_fail {s : State} (hf : s.fsm = .fail) : LastPixelInv s := fun h => by
  simp [State.phase, hf, Fsm.phase] at h

/-- What writes neither pixel nor register in a running decode keeps the last pixel. -/
theorem LastPixelInv.of_frame {s t : State} (h : LastPixelInv s) (hs : s.phase = .chunk ∨ s.phase = .endmark)
    (k : EndFrame s t) : LastPixelInv t := by
  intro _
  rw [k.pos, k.prev, k.buffer]
  exact h hs

/-- A chunk writes the pixel it leaves in `prev`, or fails. -/
theorem LastPixelInv.of_exec {i : Instr} {s t : State} {rest : List Byte} (hf : s.fsm = .op)
    (hd : decodeChunk s.bytesLeft = .ok (i, rest)) (e : exec i s = .next t) : LastPixelInv t := by
  have h : s.stepChunk = .next t := by rw [State.stepChunk, decode, hd]; exact e
  rcases State.stepChunk_completes hf h with ⟨hfail, -⟩ | ⟨n, k⟩
  · exact .of_fail hfail
  · exact k.writes.lastPixelInv k.pos

/-- Every part of a step keeps `prev` the pixel of the last cell written. -/
theorem lastPixelInv_kept : KeptByParts LastPixelInv where
  host _ _ hs := hs
  start _ _ _ _ _ _ _ _ := fun _ => rfl
  reset _ _ := fun h => by rcases h with h | h <;> cases h
  endStream _ _ hs := hs
  chunk _ _ _ _ _ hf hd e := .of_exec hf hd e
  shortChunk _ _ _ := .of_fail rfl
  byte s b hs hr _ := hs.of_frame (State.phase_of_inReady hr) (s.byteEvent_frame b)
  shortByte _ _ _ := .of_fail rfl
  pixel s _ _ hp := (WritesCells.of_emit s.latches.cur s.latches.upd hp).lastPixelInv Nat.one_pos
  runPixel _ _ _ hp := (WritesCells.of_runPixel hp).lastPixelInv Nat.one_pos

/-- Settles O40: each part of a step that writes cells leaves in `prev` the pixel it wrote last. -/
theorem stepKeepsLastPixel : Obligations.StepKeepsLastPixel := fun _ _ hs h => lastPixelInv_kept.step hs h

end Sys2Proof.Machine

end

section
/-! PROOF. A step reads its own bytes and no more (40_chunk_cycle.md R71, 45_end_marker.md R133). -/

namespace Sys2Proof.Machine

/-- The block with another stream to read. -/
def State.withStream (str : List Byte) (s : State) : State := { s with stream := str }

@[simp] theorem State.withStream_fsm (str : List Byte) (s : State) : (s.withStream str).fsm = s.fsm := rfl
@[simp] theorem State.withStream_stream (str : List Byte) (s : State) : (s.withStream str).stream = str := rfl
@[simp] theorem State.withStream_bytesLeft (str : List Byte) (s : State) :
    (s.withStream str).bytesLeft = str.drop s.sp := rfl
@[simp] theorem State.withStream_nextByte (str : List Byte) (s : State) : (s.withStream str).nextByte? = str[s.sp]? := rfl

/-! ### What does not read the stream -/

/-- What is done to the block does not depend on the stream and leaves it. -/
def IgnoresStream (f : State → State) : Prop :=
  ∀ (str : List Byte) (s : State), f (s.withStream str) = (f s).withStream str

/-- The tail of a one-pixel chunk: its pixel is fixed once its bytes are fetched. -/
theorem State.emit_ignoresStream (px : Pixel) (upd : Bool) : IgnoresStream (State.emit px upd) := by
  intro str s
  cases upd <;> rfl

theorem State.commitPending_ignoresStream : IgnoresStream State.commitPending := fun str s =>
  State.emit_ignoresStream s.latches.cur s.latches.upd str s

theorem State.runPixel_ignoresStream : IgnoresStream State.runPixel := fun _ _ => rfl

theorem State.runChunk_ignoresStream (fn : BitVec 6) : IgnoresStream (State.runChunk fn) := by
  intro str s
  simp only [State.runChunk, apply_ite (State.withStream str)]
  rfl

theorem State.opByte_ignoresStream (b : Byte) : IgnoresStream (State.opByte b) := by
  intro str s
  unfold State.opByte
  cases kindOf b with
  | rgb | rgba | index | diff | luma => rfl
  | run =>
    simp only [apply_ite (State.withStream str)]
    rfl

theorem State.litBByte_ignoresStream (b : Byte) : IgnoresStream (State.litBByte b) := by
  intro str s
  simp only [State.litBByte, apply_ite (State.withStream str)]
  rfl

theorem State.endByte_ignoresStream (b : Byte) : IgnoresStream (State.endByte b) := by
  intro str s
  simp only [State.endByte, apply_ite (State.withStream str)]
  rfl

/-- A byte event depends on the byte it is given and not on where it comes from (47_fsm_refinement.md R151). -/
theorem State.byteEvent_ignoresStream (b : Byte) : IgnoresStream (State.byteEvent b) := by
  intro str s
  unfold State.byteEvent
  rw [State.withStream_fsm]
  cases s.fsm with
  | op => exact State.opByte_ignoresStream b str (s.consume 1)
  | litB => exact State.litBByte_ignoresStream b str (s.consume 1)
  | endMark => exact State.endByte_ignoresStream b str s
  | idle | litR | litG | litA | luma2 | emit | run | done | fail => rfl

/-- A pixel event takes its pixel from the block and not from the stream (47_fsm_refinement.md R157, R158). -/
theorem State.pixelEvent_withStream {s t : State} (str : List Byte) (h : s.pixelEvent = .next t) :
    (s.withStream str).pixelEvent = .next (t.withStream str) := by
  unfold State.pixelEvent at *
  rw [State.withStream_fsm]
  cases hf : s.fsm with
  | emit =>
    rw [hf] at h
    obtain ⟨hp, rfl⟩ := ifCellLeft_next.1 h
    exact ifCellLeft_next.2 ⟨hp, (State.commitPending_ignoresStream str s).symm⟩
  | run =>
    rw [hf] at h
    obtain ⟨hp, rfl⟩ := ifCellLeft_next.1 h
    exact ifCellLeft_next.2 ⟨hp, (State.runPixel_ignoresStream str s).symm⟩
  | idle | op | litR | litG | litB | litA | luma2 | endMark | done | fail =>
    rw [hf] at h
    injection h with h
    rw [h]

/-- A chunk's meaning that does not read the stream. -/
theorem atChunk_withStream {f : State → State} (hf : IgnoresStream f) {s t u : State} (str : List Byte)
    (h : atChunk s (f u) = .next t) : atChunk (s.withStream str) (f (u.withStream str)) = .next (t.withStream str) := by
  obtain ⟨hop, hp, rfl⟩ := atChunk_next.1 h
  exact atChunk_next.2 ⟨hop, hp, (hf str u).symm⟩

/-- Once a chunk is decoded its meaning reads no byte (40_chunk_cycle.md R70). -/
theorem exec_chunk_withStream {i : Instr} (hi : i.readAs = .chunk) {s t : State} (str : List Byte)
    (h : exec i s = .next t) : exec i (s.withStream str) = .next (t.withStream str) := by
  cases i with
  | endMarker => cases hi
  | rgb r g b =>
    exact atChunk_withStream (u := (s.consume 4).latchLiteral _ _ _ _) (State.emit_ignoresStream _ _) str h
  | rgba r g b a =>
    exact atChunk_withStream (u := (s.consume 5).latchLiteral _ _ _ _) (State.emit_ignoresStream _ _) str h
  | index | diff => exact atChunk_withStream (u := s.consume 1) (State.emit_ignoresStream _ _) str h
  | luma fdg => exact atChunk_withStream (u := (s.consume 2).latchLuma fdg) (State.emit_ignoresStream _ _) str h
  | run fn => exact atChunk_withStream (u := s.consume 1) (State.runChunk_ignoresStream fn) str h

/-! ### What is read lies before the cursor the step leaves -/

/-- A chunk consumes its own length (30_encoding.md R52). -/
theorem exec_chunk_sp {i : Instr} (hi : i.readAs = .chunk) {s t : State} (h : exec i s = .next t) :
    t.sp = s.sp + i.length := by
  rcases exec_next h with ⟨-, -, l, px, upd, -, rfl⟩ | ⟨-, -, fn, rfl, rfl⟩ | ⟨hf, -⟩
  · simp
  · simp [Instr.length]
  · cases i with
    | endMarker => cases hi
    | rgb | rgba | index | diff | luma | run =>
      obtain ⟨hop, -⟩ := atChunk_next.1 h
      simp [hop] at hf

/-- An end-marker byte is consumed, right or wrong (45_end_marker.md R131). -/
theorem State.sp_lt_endByte (b : Byte) (s : State) : s.sp < (s.endByte b).sp := by
  rcases s.endByte_cases b with ⟨-, -, e⟩ | ⟨-, -, e⟩ | ⟨-, e⟩ <;> rw [e] <;> exact Nat.lt_succ_self _

/-- END on a byte that is there (45_end_marker.md R131). -/
theorem State.endBytes_succ {b : Byte} {s : State} (h : s.nextByte? = some b) (n : Nat) : s.endBytes (n + 1) =
    if (s.endByte b).fsm = .endMark then (s.endByte b).endBytes n else s.endByte b := by
  rw [State.endBytes, h]

/-- A stream that begins with a chunk's bytes decodes to the chunk, whatever comes after them. -/
theorem decodeChunk_of_take_eq {bs bs' rest : List Byte} {i : Instr} (h : decodeChunk bs = .ok (i, rest))
    (htake : bs'.take i.length = bs.take i.length) : ∃ rest', decodeChunk bs' = .ok (i, rest') := by
  obtain ⟨hwf, hi, hbs⟩ := encodeDecode _ _ _ h
  have hlen : (encode i).length = i.length := by cases i <;> rfl
  have hsplit : encode i ++ bs'.drop i.length = bs' := by
    rw [← hbs, ← hlen, List.take_left, hlen] at htake
    rw [← htake, List.take_append_drop]
  have hdec := decodeEncode i (bs'.drop i.length) hwf
  rw [hi, hsplit] at hdec
  exact ⟨_, hdec⟩

section
variable {s t : State} {str : List Byte}

/-- The next byte is the same on a stream that agrees past the cursor. -/
theorem State.getElem?_of_agree {m : Nat} (hagree : str.take m = s.stream.take m) (h : s.sp < m) :
    str[s.sp]? = s.nextByte? := by
  rw [State.nextByte?, ← List.getElem?_take_of_lt h, hagree, List.getElem?_take_of_lt h]

/-- A chunk step reads the bytes of its chunk alone (40_chunk_cycle.md R71). -/
theorem State.stepChunk_withStream (h : s.stepChunk = .next t) (hc : t.cause ≠ .shortRead)
    (hagree : str.take t.sp = s.stream.take t.sp) : (s.withStream str).stepChunk = .next (t.withStream str) := by
  rcases State.stepChunk_next h with ⟨i, rest, hd, e⟩ | ⟨-, -, rfl⟩
  · obtain ⟨-, hi, -⟩ := encodeDecode _ _ _ hd
    rw [exec_chunk_sp hi e] at hagree
    have htake : (str.drop s.sp).take i.length = s.bytesLeft.take i.length := by
      rw [State.bytesLeft, List.take_drop, List.take_drop, hagree]
    obtain ⟨rest', hd'⟩ := decodeChunk_of_take_eq hd htake
    rw [State.stepChunk, decode, State.withStream_bytesLeft, hd']
    exact exec_chunk_withStream hi str e
  · exact absurd rfl hc

/-- An event reads the byte it consumes, if it consumes one (47_fsm_refinement.md R151). -/
theorem State.event_withStream (h : s.event = .next t) (hc : t.cause ≠ .shortRead)
    (hagree : str.take t.sp = s.stream.take t.sp) : (s.withStream str).event = .next (t.withStream str) := by
  unfold State.event at h
  rw [State.event, State.withStream_fsm]
  split at h
  · next hr =>
    rw [if_pos hr]
    split at h
    · next b hb =>
      injection h with h
      subst h
      have hlt : s.sp < (s.byteEvent b).sp := by rw [s.byteEvent_sp b hr]; exact Nat.lt_succ_self _
      rw [State.withStream_nextByte, State.getElem?_of_agree hagree hlt, hb]
      exact congrArg _ (State.byteEvent_ignoresStream b str s)
    · injection h with h
      exact absurd (congrArg State.cause h.symm) hc
  · next hr =>
    rw [if_neg hr]
    exact State.pixelEvent_withStream str h

/-- END compares the bytes it consumes and reads none after them (45_end_marker.md R133). -/
theorem State.endBytes_withStream (n : Nat) (hf : s.fsm = .endMark) (hc : (s.endBytes n).cause ≠ .shortRead)
    (hagree : str.take (s.endBytes n).sp = s.stream.take (s.endBytes n).sp) :
    (s.withStream str).endBytes n = (s.endBytes n).withStream str := by
  induction n generalizing s with
  | zero => rfl
  | succ k ih =>
    cases hb : s.nextByte? with
    | none => simp [State.endBytes, hb] at hc
    | some b =>
      rw [State.endBytes_succ hb] at hc hagree ⊢
      by_cases hm : (s.endByte b).fsm = .endMark
      · rw [if_pos hm] at hc hagree ⊢
        obtain ⟨-, hle⟩ := State.endBytes_advances k hm
        have hnext := (State.getElem?_of_agree hagree ((s.sp_lt_endByte b).trans_le hle)).trans hb
        rw [State.endBytes_succ (s := s.withStream str) hnext, State.endByte_ignoresStream b str s,
          State.withStream_fsm, if_pos hm]
        exact ih hm hc (by rw [(s.endByte_frame b).stream]; exact hagree)
      · rw [if_neg hm] at hc hagree ⊢
        have hnext := (State.getElem?_of_agree hagree (s.sp_lt_endByte b)).trans hb
        rw [State.endBytes_succ (s := s.withStream str) hnext, State.endByte_ignoresStream b str s,
          State.withStream_fsm, if_neg hm]

/-- A step that is no short read is the same on every stream that agrees up to where it leaves the cursor. -/
theorem State.blockStep_withStream (h : s.blockStep = .next t) (hc : t.cause ≠ .shortRead)
    (hagree : str.take t.sp = s.stream.take t.sp) : (s.withStream str).blockStep = .next (t.withStream str) := by
  cases hf : s.fsm with
  | idle | done | fail =>
    have hr : s.fsm.resting = true := congrArg Fsm.resting hf
    rw [State.blockStep_of_resting hr] at h
    injection h with h
    rw [State.blockStep_of_resting (s := s.withStream str) hr, h]
  | op =>
    rw [State.blockStep_of_op hf] at h
    rw [State.blockStep_of_op (s := s.withStream str) hf]
    exact State.stepChunk_withStream h hc hagree
  | endMark =>
    rw [State.blockStep_of_endMark hf] at h
    obtain ⟨-, rfl⟩ := execEndMarker_next.1 h
    rw [State.blockStep_of_endMark (s := s.withStream str) hf]
    exact execEndMarker_next.2 ⟨hf, (State.endBytes_withStream 8 hf hc hagree).symm⟩
  | litR | litG | litB | litA | luma2 | emit | run =>
    have hp : s.phase = .chunk := congrArg Fsm.phase hf
    have hop : s.fsm ≠ .op := by simp [hf]
    rw [State.blockStep_of_inChunk hp hop] at h
    rw [State.blockStep_of_inChunk (s := s.withStream str) hp hop]
    exact State.event_withStream h hc hagree

/-- A step that is no short read leaves the stream (20_memory.md R31): it is the step of the block on its own stream. -/
theorem State.blockStep_stream (h : s.blockStep = .next t) (hc : t.cause ≠ .shortRead) : t.stream = s.stream := by
  have e : s.blockStep = .next (t.withStream s.stream) := State.blockStep_withStream h hc rfl
  rw [h] at e
  injection e with e
  rw [e, State.withStream_stream]

end

/-- Settles O28: the bytes a step reads lie before the cursor it leaves, and what comes after them can be replaced. -/
theorem bytesAfterUnread : Obligations.BytesAfterUnread := by
  intro s t tail hs hsp h hc
  rw [step_of_host_nil hs] at h
  have hle : t.sp ≤ s.stream.length := State.blockStep_stream h hc ▸ cursorInv_kept.blockStep hsp h
  refine (step_of_host_nil (s := s.withStream (s.stream.take t.sp ++ tail)) hs).trans ?_
  refine State.blockStep_withStream h hc ?_
  rw [List.take_append_of_le_length (by simp [hle]), List.take_take, Nat.min_self]

end Sys2Proof.Machine

end

section
/-! PROOF. The literal chunks RGB and RGBA (41_literal_chunks.md R90, R91), and what every chunk step shares: the fetch
of an encoded chunk and the short read of a chunk cut in its payload (40_chunk_cycle.md R70, R71). -/

namespace Sys2Proof.Machine

/-! ### The fetch and the short read of a chunk -/

/-- A step runs the chunk whose bytes come next (40_chunk_cycle.md R70, 30_encoding.md R51). -/
theorem step_of_encoded {i : Instr} {rest : List Byte} {s : State} (hi : i.readAs = .chunk) (hwf : i.wellFormed = true)
    (hs : s.host = []) (hf : s.fsm = .op) (hb : s.bytesLeft = encode i ++ rest) : step s = exec i s := by
  have hd : decode .chunk s.bytesLeft = .ok (i, rest) := by rw [hb, ← hi, decodeEncode i rest hwf]
  exact stepRunsDecoded.1 s i rest hs hf hd

/-- Where bytes are left, the cursor lies in the stream (10_state.md R18). -/
theorem CursorInv.of_bytesLeft {b : Byte} {rest : List Byte} {s : State} (hb : s.bytesLeft = b :: rest) :
    CursorInv s := by
  have hlen : s.stream.length - s.sp = rest.length + 1 := by
    rw [← List.length_drop, ← State.bytesLeft, hb, List.length_cons]
  unfold CursorInv
  omega

/-- A stream that ends before the last byte of the chunk its next byte begins gives a short read, which writes no pixel
(40_chunk_cycle.md R71, 60_exceptions.md R172). -/
theorem step_of_cut {b0 : Byte} {payload : List Byte} {s : State} (hs : s.host = []) (hf : s.fsm = .op)
    (hb : s.bytesLeft = b0 :: payload) (hcut : payload.length + 1 < (kindOf b0).length) :
    step s = .next { s with sp := s.stream.length, cause := .shortRead, fsm := .fail } := by
  refine shortRead s hs hf (CursorInv.of_bytesLeft hb) fun c rest hc => ?_
  obtain ⟨rfl, -⟩ := List.cons.inj (hb.symm.trans hc)
  rwa [hb]

/-! ### RGB and RGBA -/

/-- Settles O14: RGB loads its latches and emits its payload with the alpha of `prev`; its control byte is of a kind of
four bytes. -/
theorem rgbRule : Obligations.RgbRule := by
  intro r g b s hf hp
  refine ⟨⟨_, atChunk_of hf hp, ?_⟩, fun rest hs hb => ?_, fun payload hs hb hlen => ?_⟩
  · exact State.emit_emitsOne 4 _ true rfl rfl
  · exact step_of_encoded (i := .rgb r g b) rfl rfl hs hf hb
  · exact step_of_cut hs hf hb (Nat.succ_lt_succ hlen)

/-- Settles O15: RGBA loads its latches and emits its payload; its control byte is of a kind of five bytes. -/
theorem rgbaRule : Obligations.RgbaRule := by
  intro r g b a s hf hp
  refine ⟨⟨_, atChunk_of hf hp, ?_⟩, fun rest hs hb => ?_, fun payload hs hb hlen => ?_⟩
  · exact State.emit_emitsOne 5 _ true rfl rfl
  · exact step_of_encoded (i := .rgba r g b a) rfl rfl hs hf hb
  · exact step_of_cut hs hf hb (Nat.succ_lt_succ hlen)

end Sys2Proof.Machine

end

section
/-! PROOF. The index chunk (42_index_chunk.md R100, R103). -/

namespace Sys2Proof.Machine

/-- Settles O16: INDEX emits the cache entry its field names and leaves the cache as it was, so `prev` after it on the
initial cache is that cache's entry (10_state.md R16). -/
theorem indexRule : Obligations.IndexRule := by
  intro idx s hf hp
  have hexec : exec (.index idx) s = .next ((s.consume 1).emit (s.cacheRead idx) false) := atChunk_of hf hp
  refine ⟨⟨_, hexec, ?_, ?_⟩, fun rest hs hb => ?_, fun hc => ⟨_, hexec, ?_⟩⟩
  · exact State.emit_emitsOne 1 _ false rfl rfl
  · exact State.emit_cache _ false _
  · exact step_of_encoded (i := .index idx) rfl rfl hs hf hb
  · exact (State.emit_prev _ false _).trans (State.cacheRead_initial s hc idx)

end Sys2Proof.Machine

end

section
/-! PROOF. The delta chunks DIFF and LUMA (43_delta_chunks.md R110 to R112). -/

namespace Sys2Proof.Machine

/-- Settles O17: DIFF emits `diffPixel`, whose channels add their deltas with the floor modulus (40_chunk_cycle.md
R77). -/
theorem diffRule : Obligations.DiffRule := by
  intro fr fg fb s hf hp
  refine ⟨⟨_, diffPixel s.prev fr fg fb, atChunk_of hf hp, ?_, ?_⟩, fun rest hs hb => ?_⟩
  · exact State.emit_emitsOne 1 _ true rfl rfl
  · exact ⟨addDelta_toNat _ _, addDelta_toNat _ _, addDelta_toNat _ _, rfl⟩
  · exact step_of_encoded (i := .diff fr fg fb) rfl rfl hs hf hb

/-- The red or blue channel of LUMA: the green delta and the channel's own are added in one sum (43_delta_chunks.md
R111). -/
theorem addDelta_luma_toNat (c : Byte) (fdg : BitVec 6) (f : BitVec 4) :
    ((addDelta c (lumaGreen fdg + lumaRelative f)).toNat : Int) =
      (c.toNat + ((fdg.toNat : Int) - 32) + ((f.toNat : Int) - 8)) % 256 := by
  rw [addDelta_toNat, lumaGreen, lumaRelative, Int.add_assoc]

/-- Settles O18: LUMA latches its green field and emits `lumaPixel`, whose three channels start from the old pixel; its
control byte is of a kind of two bytes. -/
theorem lumaRule : Obligations.LumaRule := by
  intro fdg fdrg fdbg s hf hp
  refine ⟨⟨_, lumaPixel s.prev fdg fdrg fdbg, atChunk_of hf hp, ?_, ?_⟩, fun rest hs hb => ?_, fun hs hb => ?_⟩
  · exact State.emit_emitsOne 2 _ true rfl rfl
  · exact ⟨addDelta_luma_toNat _ _ _, addDelta_toNat _ _, addDelta_luma_toNat _ _ _, rfl⟩
  · exact step_of_encoded (i := .luma fdg fdrg fdbg) rfl rfl hs hf hb
  · exact step_of_cut hs hf hb (by rw [kindOf_lumaByte]; decide)

/-- Settles O13: a finite table of fixed bytes, evaluated entry by entry. -/
theorem deltaCorners : Obligations.DeltaCorners := ⟨by decide, by decide, by decide⟩

end Sys2Proof.Machine

end

section
/-! PROOF. The RUN chunk: the run that fits, the overflow and the dead guard (44_run_chunk.md R120 to R124). -/

namespace Sys2Proof.Machine

/-! ### The three outcomes of a run, each by its condition (44_run_chunk.md R120) -/

section
variable {fn : BitVec 6} {s : State}

theorem State.runChunk_of_reserved (hfn : 61 < fn.toNat) : s.runChunk fn = s.raise .reservedRun := by
  rcases s.runChunk_cases fn with ⟨-, e⟩ | ⟨hle, -⟩ | ⟨hle, -⟩
  · exact e
  · omega
  · omega

theorem State.runChunk_of_overflow (hfn : fn.toNat ≤ 61) (hc : s.total.toNat < s.pos.toNat + runLength fn) :
    s.runChunk fn = s.raise .runOverflow := by
  rcases s.runChunk_cases fn with ⟨hgt, -⟩ | ⟨-, -, e⟩ | ⟨-, hle, -⟩
  · omega
  · exact e
  · unfold State.cellsLeft runLength at *; omega

theorem State.runChunk_of_fits (hfn : fn.toNat ≤ 61) (hc : s.pos.toNat + runLength fn ≤ s.total.toNat) :
    s.runChunk fn = ((s.runWrite (runLength fn)).latchRun 0#6).advance (runLength fn) := by
  rcases s.runChunk_cases fn with ⟨hgt, -⟩ | ⟨-, hlt, -⟩ | ⟨-, -, e⟩
  · omega
  · unfold State.cellsLeft at hlt; omega
  · exact e

/-- RUN at a chunk boundary with a cell left (40_chunk_cycle.md R70, 44_run_chunk.md R120). -/
theorem exec_run (hf : s.fsm = .op) (hp : s.pos < s.total) :
    exec (.run fn) s = .next ((s.consume 1).runChunk fn) :=
  atChunk_of hf hp

end

/-! ### A run that fits -/

/-- Writing `prev` to the next `n` cells, clearing the run counter and advancing over them is a run of `n` pixels
(44_run_chunk.md R122, R124). -/
theorem State.runWrite_emitsRun {n : Nat} {s : State} (hfits : s.pos.toNat + n ≤ s.total.toNat) :
    EmitsRun n s ((((s.consume 1).runWrite n).latchRun 0#6).advance n) := by
  have hpos : (s.pos + BitVec.ofNat 64 n).toNat = s.pos.toNat + n :=
    (WritesCells.of_runWrite (s := s) 0#6 hfits).pos_toNat
  have hphase := nextFsm_phase (s.pos + BitVec.ofNat 64 n) s.total
  have hbuffer (p : Nat) := Memory.read_fill n s.pos.toNat p s.prev s.buffer
  refine { prev := rfl, cache := rfl, cell := fun k hk => ?_, buffer := hbuffer, pos := hpos, sp := rfl,
           phase := ?_, width := rfl, height := rfl, total := rfl, cause := rfl, endcnt := rfl, stream := rfl,
           bufferVoid := rfl, host := rfl, decodes := rfl }
  · exact State.hostCell_of_read (State.cellsVoid_eq_false hphase.1 hphase.2.1)
      ((hbuffer _).trans (if_pos ⟨by omega, by omega⟩))
  · rw [← hpos]
    exact if_congr BitVec.toNat_inj.symm rfl rfl

/-- Settles O19: the run's control byte is fetched as a RUN, and a run that fits passes the guard and the overflow
test. -/
theorem runFits : Obligations.RunFits := by
  intro fn s hf hfn hfits
  have hp : s.pos < s.total := by rw [BitVec.lt_def]; omega
  have hrun : EmitsRun (fn.toNat + 1) s ((s.consume 1).runChunk fn) := by
    rw [State.runChunk_of_fits (s := s.consume 1) hfn hfits]
    exact State.runWrite_emitsRun hfits
  refine ⟨⟨_, exec_run hf hp, hrun⟩, fun rest hs hb => ?_⟩
  exact step_of_encoded (i := .run fn) rfl (decide_eq_true hfn) hs hf hb

/-! ### Overflow and the exact fit -/

/-- Settles O20: the overflow test comes before any write; a run that ends at the last cell is a run that fits. -/
theorem runOverflow : Obligations.RunOverflow := by
  intro fn s hf hp hfn
  refine ⟨fun hover => ?_, fun hexact => ?_⟩
  · rw [exec_run hf hp, State.runChunk_of_overflow (s := s.consume 1) hfn hover]
    rfl
  · obtain ⟨⟨t, ht, hrun⟩, -⟩ := runFits fn s hf hfn hexact.le
    refine ⟨t, ht, ?_⟩
    rw [State.phase, hrun.phase, if_pos hexact]
    rfl

/-! ### The reserved-length guard -/

/-- A run whose field passes the guard raises no RESERVED_RUN (44_run_chunk.md R121). -/
theorem State.runChunk_cause_ne_reservedRun {fn : BitVec 6} {s : State} (hfn : fn.toNat ≤ 61)
    (hs : s.cause ≠ .reservedRun) : (s.runChunk fn).cause ≠ .reservedRun := by
  rcases s.runChunk_cases fn with ⟨hgt, -⟩ | ⟨-, -, e⟩ | ⟨-, -, e⟩
  · omega
  · rw [e]; nofun
  · rw [e]; exact hs

/-- A chunk that was decoded raises no RESERVED_RUN: a decoded RUN is well formed (44_run_chunk.md R121). -/
theorem exec_decoded_cause_ne_reservedRun {i : Instr} {s t : State} {rest : List Byte} (hs : s.cause ≠ .reservedRun)
    (hf : s.fsm = .op) (hd : decodeChunk s.bytesLeft = .ok (i, rest)) (h : exec i s = .next t) :
    t.cause ≠ .reservedRun := by
  rcases exec_next h with ⟨-, -, l, px, upd, -, rfl⟩ | ⟨-, -, fn, rfl, rfl⟩ | ⟨hf', -⟩
  · simpa using hs
  · obtain ⟨hwf, -, -⟩ := encodeDecode _ _ _ hd
    exact State.runChunk_cause_ne_reservedRun (s := s.consume 1) (of_decide_eq_true hwf) hs
  · simp [hf] at hf'

/-- The op-code parser's guard is dead: a control byte of kind RUN has a field of at most 61 (44_run_chunk.md R121,
47_fsm_refinement.md R155). -/
theorem State.opByte_cause_ne_reservedRun (b : Byte) {s : State} (hs : s.cause ≠ .reservedRun) :
    (s.opByte b).cause ≠ .reservedRun := by
  unfold State.opByte
  cases hk : kindOf b with
  | rgb | rgba | index | diff | luma => exact hs
  | run =>
    have hfield := runField_le_of_kind hk
    dsimp only
    split
    · next hr => bv_omega
    · split
      · nofun
      · exact hs

theorem State.byteEvent_cause_ne_reservedRun (b : Byte) {s : State} (hs : s.cause ≠ .reservedRun) :
    (s.byteEvent b).cause ≠ .reservedRun := by
  unfold State.byteEvent
  cases s.fsm with
  | op => exact State.opByte_cause_ne_reservedRun (s := s.consume 1) b hs
  | litB => dsimp only [State.litBByte]; split <;> exact hs
  | endMark => rcases s.endByte_cases b with ⟨-, -, e⟩ | ⟨-, -, e⟩ | ⟨-, e⟩ <;> simp [e, hs]
  | idle | litR | litG | litA | luma2 | emit | run | done | fail => exact hs

/-- Every part of a step leaves `cause`, clears it, or raises another cause. -/
theorem notReservedRun_kept : KeptByParts (fun s => s.cause ≠ .reservedRun) where
  host _ _ hs := hs
  start _ _ _ _ _ _ _ _ := nofun
  reset _ _ := nofun
  endStream _ _ hs := hs
  chunk _ _ _ _ hs hf hd e := exec_decoded_cause_ne_reservedRun hs hf hd e
  shortChunk _ _ _ := nofun
  byte _ b hs _ _ := State.byteEvent_cause_ne_reservedRun b hs
  shortByte _ _ _ := nofun
  pixel _ hs _ _ := by simpa using hs
  runPixel _ hs _ _ := hs

/-- Settles O21: no byte of kind RUN reaches the guard, so no part of a step raises RESERVED_RUN; a forged field
does. -/
theorem reservedRun : Obligations.ReservedRun := by
  refine ⟨fun _ h => runField_le_of_kind h, fun _ _ hs h => notReservedRun_kept.step hs h, fun fn s hf hp hfn => ?_⟩
  have hgt : 61 < fn.toNat := by rcases hfn with rfl | rfl <;> decide
  rw [exec_run hf hp, State.runChunk_of_reserved hgt]
  rfl

end Sys2Proof.Machine

end

section
/-! PROOF. START (45_end_marker.md R130): accepted with no decode running and both dimensions nonzero, else refused. -/

namespace Sys2Proof.Machine

/-- No decode runs exactly in IDLE, DONE and FAILED (45_end_marker.md R130). -/
theorem State.resting_iff (s : State) :
    s.fsm.resting = true ↔ s.phase = .idle ∨ s.phase = .done ∨ s.phase = .failed := by
  unfold State.phase
  cases s.fsm <;> decide

/-- Settles O3: an accepted START is `startLoad`, whose first cell lies in a nonempty image. -/
theorem startLoads : Obligations.StartLoads := by
  refine fun w h str s => ⟨fun hs hw hh => ?_, fun hs hz => ?_, fun hs => ?_⟩
  · obtain ⟨hlt, -⟩ := (DecodeInv.startLoad s str hw hh).chunkDue rfl nofun
    exact ⟨_, startDecode_next.2 ⟨s.resting_iff.2 hs, hw, hh, rfl⟩, rfl, rfl, total_toNat w h, rfl,
      State.cacheRead_initial _ rfl, rfl, rfl, rfl, rfl, rfl, rfl, rfl, hlt, rfl⟩
  · rw [startDecode, if_pos (s.resting_iff.2 hs), if_pos hz]
  · have hrun : ¬ s.fsm.resting = true := by
      rw [State.resting_iff]
      rcases hs with e | e <;> simp [e]
    exact if_neg hrun

end Sys2Proof.Machine

end

section
/-! PROOF. The end marker (45_end_marker.md R131, R132, R134). The bytes left begin with the marker, with zeros and a
wrong byte, or end after zeros; in each case END is computed, so the three outcomes say when DONE is reached. -/

namespace Sys2Proof.Machine

/-! ### When END runs -/

/-- Settles O25: END tests for S_END, which is phase ENDMARK, and its bytes write neither pixel nor register. -/
theorem endPrecondition : Obligations.EndPrecondition := by
  refine fun s => ⟨fun hp => ?_, fun hp => ?_⟩
  · have hf : s.fsm ≠ .endMark := fun e => hp (congrArg Fsm.phase e)
    exact if_neg hf
  · exact ⟨_, execEndMarker_next.2 ⟨State.fsm_of_endmark hp, rfl⟩, s.endBytes_frame 8⟩

/-! ### The zeros of the marker -/

/-- The next byte is the first of the bytes left (20_memory.md R31). -/
theorem State.nextByte_eq_head (s : State) : s.nextByte? = s.bytesLeft.head? := List.head?_drop.symm

/-- The block once it has taken the first `k` zeros of the marker (47_fsm_refinement.md R159). -/
def State.afterZeros (k : Nat) (s : State) : State :=
  { s.consume k with latches := { s.latches with endcnt := BitVec.ofNat 4 k } }

/-- After `k` zeros that were there, the next byte is the first of the rest. -/
theorem State.afterZeros_nextByte {k : Nat} {tail : List Byte} {s : State}
    (hb : s.bytesLeft = List.replicate k 0#8 ++ tail) : (s.afterZeros k).nextByte? = tail.head? := by
  have hrest : (s.afterZeros k).bytesLeft = s.bytesLeft.drop k := List.drop_drop.symm
  rw [State.nextByte_eq_head, hrest, hb, List.drop_left' List.length_replicate]

/-- The byte due after `k` zeros (45_end_marker.md R131). -/
theorem expectedEndByte_ofNat {k : Nat} (hk : k < 8) :
    expectedEndByte (BitVec.ofNat 4 k) = if k = 7 then 1#8 else 0#8 := by
  revert k; decide

/-- One more zero, where a zero is due (45_end_marker.md R131). -/
theorem State.endByte_zero {k : Nat} {s : State} (hf : s.fsm = .endMark) (hk : k < 7) :
    (s.afterZeros k).endByte 0#8 = s.afterZeros (k + 1) := by
  have hexp : 0#8 = expectedEndByte (BitVec.ofNat 4 k) := by
    rw [expectedEndByte_ofNat (by omega), if_neg (by omega)]
  have hcnt : BitVec.ofNat 4 k + 1#4 = BitVec.ofNat 4 (k + 1) := (BitVec.ofNat_add k 1).symm
  have hmore : BitVec.ofNat 4 (k + 1) ≠ 8#4 := by bv_omega
  rw [State.endByte, State.afterZeros, if_pos hexp, hcnt, if_neg hmore, ← hf]
  rfl

section
variable {s : State} (hf : s.fsm = .endMark) (hc : s.latches.endcnt = 0#4)
include hf hc

/-- END takes the zeros of the marker one by one (45_end_marker.md R131). -/
theorem State.endBytes_zeros (k : Nat) {tail : List Byte} (hk : k ≤ 7)
    (hb : s.bytesLeft = List.replicate k 0#8 ++ tail) (n : Nat) :
    s.endBytes (k + n) = (s.afterZeros k).endBytes n := by
  induction k generalizing tail n with
  | zero =>
    have h0 : s.afterZeros 0 = s := by rw [State.afterZeros, ← hc]; rfl
    rw [h0, Nat.zero_add]
  | succ k ih =>
    rw [List.replicate_succ', List.append_assoc, List.singleton_append] at hb
    have hstep := State.endByte_zero hf hk
    have hfsm : (s.afterZeros (k + 1)).fsm = .endMark := hf
    rw [Nat.add_right_comm, Nat.add_assoc, ih (Nat.le_of_lt hk) hb,
      State.endBytes_succ (State.afterZeros_nextByte hb), hstep, if_pos hfsm]

/-! ### The three outcomes of END -/

/-- On the eight right bytes END reaches DONE, whatever follows them (45_end_marker.md R131, R133). -/
theorem State.endBytes_of_marker {rest : List Byte} (hb : s.bytesLeft = List.replicate 7 0#8 ++ 1#8 :: rest) :
    s.endBytes 8 = { s.consume 8 with latches := { s.latches with endcnt := 8#4 }, fsm := .done } := by
  rw [State.endBytes_zeros hf hc 7 le_rfl hb 1, State.endBytes_succ (State.afterZeros_nextByte hb)]
  rfl

/-- On a wrong byte after `k` zeros END fails past that byte (45_end_marker.md R131). -/
theorem State.endBytes_of_wrong {k : Nat} {b : Byte} {rest : List Byte} (hk : k < 8)
    (hne : b ≠ if k = 7 then 1#8 else 0#8) (hb : s.bytesLeft = List.replicate k 0#8 ++ b :: rest) :
    s.endBytes 8 = ((s.afterZeros k).consume 1).raise .badEndMarker := by
  obtain ⟨n, hn⟩ : ∃ n, 8 = k + (n + 1) := ⟨7 - k, by omega⟩
  have hbad : (s.afterZeros k).endByte b = ((s.afterZeros k).consume 1).raise .badEndMarker :=
    if_neg (by rwa [← expectedEndByte_ofNat hk] at hne)
  rw [hn, State.endBytes_zeros hf hc k (by omega) hb, State.endBytes_succ (State.afterZeros_nextByte hb), hbad]
  exact if_neg nofun

/-- On a stream that ends after `k` zeros END is a short read at its end (45_end_marker.md R131). -/
theorem State.endBytes_of_cut {k : Nat} (hk : k < 8) (hb : s.bytesLeft = List.replicate k 0#8) :
    s.endBytes 8 = (s.afterZeros k).raise .shortRead := by
  obtain ⟨n, hn⟩ : ∃ n, 8 = k + (n + 1) := ⟨7 - k, by omega⟩
  rw [← List.append_nil (List.replicate k 0#8)] at hb
  rw [hn, State.endBytes_zeros hf hc k (by omega) hb, State.endBytes, State.afterZeros_nextByte hb]
  rfl

end

/-- Settles O24: the three outcomes of END, each with its frame; END is the step in ENDMARK. -/
theorem endRule : Obligations.EndRule := by
  intro s hf hc
  have hexec : exec .endMarker s = .next (s.endBytes 8) := execEndMarker_next.2 ⟨hf, rfl⟩
  have hframe := s.endBytes_frame 8
  refine ⟨fun rest hb => ⟨_, hexec, ?_⟩, fun k b rest hk hne hb => ⟨_, hexec, ?_⟩, fun k hk hb => ⟨_, hexec, ?_⟩,
    fun hs => ?_⟩
  · rw [State.endBytes_of_marker hf hc hb] at hframe ⊢
    exact ⟨rfl, rfl, rfl, hframe⟩
  · rw [State.endBytes_of_wrong hf hc hk hne hb] at hframe ⊢
    exact ⟨rfl, rfl, rfl, hframe⟩
  · rw [State.endBytes_of_cut hf hc hk hb] at hframe ⊢
    exact ⟨rfl, rfl, rfl, hframe⟩
  · rw [step_of_host_nil hs, State.blockStep_of_endMark hf]

/-! ### DONE is reached on a right marker only -/

/-- Bytes begin with `n` zeros, or have another byte or their end before that. -/
theorem zeros_cases (n : Nat) (bs : List Byte) :
    (∃ tail, bs = List.replicate n 0#8 ++ tail) ∨
    (∃ k b rest, k < n ∧ b ≠ 0#8 ∧ bs = List.replicate k 0#8 ++ b :: rest) ∨
    (∃ k, k < n ∧ bs = List.replicate k 0#8) := by
  induction n with
  | zero => exact .inl ⟨bs, rfl⟩
  | succ n ih =>
    rcases ih with ⟨_ | ⟨b, rest⟩, hb⟩ | ⟨k, b, rest, hk, hne, hb⟩ | ⟨k, hk, hb⟩
    · exact .inr (.inr ⟨n, Nat.lt_succ_self n, by rwa [List.append_nil] at hb⟩)
    · by_cases hz : b = 0#8
      · exact .inl ⟨rest, by rw [hb, hz, List.replicate_succ', List.append_assoc, List.singleton_append]⟩
      · exact .inr (.inl ⟨n, b, rest, Nat.lt_succ_self n, hz, hb⟩)
    · exact .inr (.inl ⟨k, b, rest, Nat.lt_succ_of_lt hk, hne, hb⟩)
    · exact .inr (.inr ⟨k, Nat.lt_succ_of_lt hk, hb⟩)

/-- Bytes begin with the marker, deviate from it after `k` zeros, or end there (45_end_marker.md R131). -/
theorem marker_cases (bs : List Byte) :
    (∃ rest, bs = List.replicate 7 0#8 ++ 1#8 :: rest) ∨
    (∃ k b rest, k < 8 ∧ b ≠ (if k = 7 then 1#8 else 0#8) ∧ bs = List.replicate k 0#8 ++ b :: rest) ∨
    (∃ k, k < 8 ∧ bs = List.replicate k 0#8) := by
  rcases zeros_cases 7 bs with ⟨_ | ⟨b, rest⟩, hb⟩ | ⟨k, b, rest, hk, hne, hb⟩ | ⟨k, hk, hb⟩
  · exact .inr (.inr ⟨7, by decide, by rwa [List.append_nil] at hb⟩)
  · by_cases hone : b = 1#8
    · exact .inl ⟨rest, hone ▸ hb⟩
    · exact .inr (.inl ⟨7, b, rest, by decide, hone, hb⟩)
  · exact .inr (.inl ⟨k, b, rest, by omega, by rwa [if_neg (Nat.ne_of_lt hk)], hb⟩)
  · exact .inr (.inr ⟨k, by omega, hb⟩)

/-- END reaches DONE on the eight right bytes only (45_end_marker.md R132). -/
theorem State.marker_of_endBytes_done {s : State} (hf : s.fsm = .endMark) (hc : s.latches.endcnt = 0#4)
    (hd : (s.endBytes 8).phase = .done) :
    ∃ rest, s.bytesLeft = List.replicate 7 0#8 ++ 1#8 :: rest ∧ (s.endBytes 8).sp = s.sp + 8 := by
  rcases marker_cases s.bytesLeft with ⟨rest, hb⟩ | ⟨k, b, rest, hk, hne, hb⟩ | ⟨k, hk, hb⟩
  · exact ⟨rest, hb, by rw [State.endBytes_of_marker hf hc hb]; rfl⟩
  · rw [State.endBytes_of_wrong hf hc hk hne hb] at hd
    cases hd
  · rw [State.endBytes_of_cut hf hc hk hb] at hd
    cases hd

/-! ### DONE is entered from ENDMARK only -/

/-- The control flow enters DONE from ENDMARK only (40_chunk_cycle.md R82). -/
theorem Advances.from_endmark {s t : State} (h : Advances s t) (hd : t.phase = .done) :
    s.phase = .done ∨ s.phase = .endmark := by
  obtain ⟨hfollows, -⟩ := h
  rw [hd] at hfollows
  rcases hfollows with e | ⟨-, e⟩ | ⟨e, -⟩ | ⟨-, e⟩
  · exact .inl e.symm
  · cases e
  · exact .inr e
  · cases e

/-- A step of the block by itself goes along the control flow, whatever moves of the host are pending
(40_chunk_cycle.md R82). -/
theorem State.blockStep_advances {s t : State} (h : s.blockStep = .next t) : Advances s t := by
  refine phaseOrder (s.renumber s.decodes) (t.renumber s.decodes) rfl ?_
  rw [step_of_host_nil rfl, State.blockStep_renumber, h, renumberOutcome_next]

/-- The handshake of a cycle goes along the control flow (47_fsm_refinement.md R151). -/
theorem State.handshake_advances {i : Inputs} {s t : State} (h : s.handshake i = .next t) : Advances s t := by
  rcases State.handshake_next h with ⟨b, hr, -, rfl⟩ | ⟨hr, -, rfl⟩ | h | rfl
  · exact State.byteEvent_advances b hr
  · exact .of_fail hr rfl le_rfl
  · exact State.pixelEvent_advances h
  · exact ⟨.inl rfl, le_rfl⟩

/-- START begins a decode, so it never enters DONE (45_end_marker.md R130). -/
theorem startDecode_phase {w h : BitVec 32} {str : List Byte} {s t : State} (e : startDecode w h str s = .next t) :
    t.phase = .chunk := by
  obtain ⟨-, -, -, rfl⟩ := startDecode_next.1 e
  rfl

/-- A cycle enters DONE by a byte taken in ENDMARK only (47_fsm_refinement.md R159). -/
theorem State.cycle_from_endmark {i : Inputs} {s t : State} (h : s.cycle i = .next t) (hd : t.phase = .done) :
    s.phase = .done ∨ s.phase = .endmark := by
  rcases State.cycle_next h with rfl | h | h | h
  · cases hd
  · cases (startDecode_phase h).symm.trans hd
  · exact (State.handshake_advances h).from_endmark hd
  · exact (State.handshake_advances h).from_endmark hd

/-- No move of the host enters DONE from elsewhere than ENDMARK (45_end_marker.md R132). -/
theorem State.hostMove_from_endmark {m : HostMove} {s t : State} (h : s.hostMove m = .next t) (hd : t.phase = .done) :
    s.phase = .done ∨ s.phase = .endmark := by
  cases m with
  | start w hh str => cases (startDecode_phase h).symm.trans hd
  | reset => injection h with h; subst h; cases hd
  | endStream n => injection h with h; subst h; exact .inl hd
  | cycle i => exact State.cycle_from_endmark h hd
  | chunk => exact (State.blockStep_advances h).from_endmark hd

/-- A step into DONE comes from ENDMARK (45_end_marker.md R132). -/
theorem step_from_endmark {s t : State} (h : step s = .next t) (hd : t.phase = .done) :
    s.phase = .done ∨ s.phase = .endmark := by
  unfold step State.moveOrStep at h
  split at h
  · exact (State.blockStep_advances h).from_endmark hd
  · next m rest _ => exact State.hostMove_from_endmark (s := { s with host := rest }) h hd

/-- Settles O30: the control flow enters DONE from ENDMARK, where END demands the eight right bytes; with no decode
running the block rests. -/
theorem doneOnlyByEnd : Obligations.DoneOnlyByEnd := by
  refine ⟨fun _ _ => step_from_endmark, fun s t hf hc hs h hd => ?_, fun s hr hs => ?_⟩
  · rw [step_of_host_nil hs, State.blockStep_of_endMark hf] at h
    obtain ⟨-, rfl⟩ := execEndMarker_next.1 h
    exact State.marker_of_endBytes_done hf hc hd
  · rw [step_of_host_nil hs, State.blockStep_of_resting (s.resting_iff.2 hr)]

end Sys2Proof.Machine

end

section
/-! PROOF. The Header Parser (46_header_parser.md R140 to R147). A file parses exactly when it is the 14 bytes of a legal
Header and the stream; the three statements about the parser are read off from that. -/

namespace Sys2Proof.Machine

/-! ### Big-endian words -/

/-- The four bytes of a word are the digits of its number to the base 256 (46_header_parser.md R141). -/
theorem be32_toNat (b0 b1 b2 b3 : Byte) :
    (be32 b0 b1 b2 b3).toNat = b0.toNat * 2 ^ 24 + b1.toNat * 2 ^ 16 + b2.toNat * 2 ^ 8 + b3.toNat := by
  rw [be32, BitVec.toNat_ofNat, Nat.mod_eq_of_lt]
  omega

/-- Four bytes give a word exactly when they are its bytes (46_header_parser.md R141). -/
theorem be32_eq_iff {b0 b1 b2 b3 : Byte} {w : BitVec 32} : be32 b0 b1 b2 b3 = w ↔ [b0, b1, b2, b3] = be32Bytes w := by
  simp only [be32Bytes, List.cons.injEq, and_true, ← BitVec.toNat_inj, be32_toNat, BitVec.toNat_ofNat]
  omega

/-! ### What parses -/

/-- The values the Header's fields may take (46_header_parser.md R141). -/
def Header.Legal (h : Header) : Prop :=
  (h.width ≠ 0#32 ∧ h.height ≠ 0#32) ∧ (h.channels = 3#8 ∨ h.channels = 4#8) ∧ (h.colorspace = 0#8 ∨ h.colorspace = 1#8)

/-- The last two bytes of a header parse exactly when they are legal (46_header_parser.md R142). -/
theorem parseTail_eq_ok {width height : BitVec 32} {bytes rest : List Byte} {h : Header} :
    parseTail width height bytes = .ok (h, rest) ↔
      (h.channels = 3#8 ∨ h.channels = 4#8) ∧ (h.colorspace = 0#8 ∨ h.colorspace = 1#8) ∧
      width = h.width ∧ height = h.height ∧ bytes = h.channels :: h.colorspace :: rest := by
  obtain ⟨w, hh, channels, colorspace⟩ := h
  constructor
  · intro hp
    unfold parseTail at hp
    split at hp
    · cases hp
    · split at hp
      · cases hp
      · next hch =>
        split at hp
        · cases hp
        · split at hp
          · cases hp
          · next hcs =>
            cases hp
            exact ⟨by tauto, by tauto, rfl, rfl, rfl⟩
  · rintro ⟨hch, hcs, rfl, rfl, rfl⟩
    simp only [parseTail]
    rw [if_neg (by tauto), if_neg (by tauto)]

/-- The bytes after the magic parse exactly when they are a legal Header's (46_header_parser.md R142). -/
theorem parseDimensions_eq_ok {bytes rest : List Byte} {h : Header} :
    parseDimensions bytes = .ok (h, rest) ↔
      h.Legal ∧ bytes = be32Bytes h.width ++ (be32Bytes h.height ++ h.channels :: h.colorspace :: rest) := by
  constructor
  · intro hp
    unfold parseDimensions at hp
    split at hp
    · next b4 b5 b6 b7 b8 b9 b10 b11 tail =>
      split at hp
      · cases hp
      · next hz =>
        obtain ⟨hch, hcs, hw, hh, rfl⟩ := parseTail_eq_ok.1 hp
        rw [hw, hh, not_or] at hz
        exact ⟨⟨hz, hch, hcs⟩, by rw [← be32_eq_iff.1 hw, ← be32_eq_iff.1 hh]; rfl⟩
    · cases hp
  · rintro ⟨⟨⟨hw, hh⟩, hch, hcs⟩, rfl⟩
    simp only [be32Bytes, List.cons_append, List.nil_append, parseDimensions]
    rw [be32_eq_iff.2 rfl, be32_eq_iff.2 rfl, if_neg (not_or.2 ⟨hw, hh⟩)]
    exact parseTail_eq_ok.2 ⟨hch, hcs, rfl, rfl, rfl⟩

/-- After the magic the dimensions are read (46_header_parser.md R142). -/
@[simp] theorem parseHeader_magic (bytes : List Byte) : parseHeader (magic ++ bytes) = parseDimensions bytes := by
  simp [magic, parseHeader]

/-- A file parses exactly when it is a legal Header's 14 bytes and the stream (46_header_parser.md R142). -/
theorem parseHeader_eq_ok {file rest : List Byte} {h : Header} :
    parseHeader file = .ok (h, rest) ↔ h.Legal ∧ file = headerBytes h ++ rest := by
  have hbytes : headerBytes h ++ rest =
      magic ++ (be32Bytes h.width ++ (be32Bytes h.height ++ h.channels :: h.colorspace :: rest)) := rfl
  rw [hbytes]
  constructor
  · intro hp
    unfold parseHeader at hp
    split at hp
    · next b0 b1 b2 b3 tail =>
      split at hp
      · next hm =>
        obtain ⟨hl, rfl⟩ := parseDimensions_eq_ok.1 hp
        exact ⟨hl, by rw [← hm]; rfl⟩
      · cases hp
    · cases hp
  · rintro ⟨hl, rfl⟩
    rw [parseHeader_magic]
    exact parseDimensions_eq_ok.2 ⟨hl, rfl⟩

/-- Settles O53: a legal Header's bytes parse to it. -/
theorem headerParses : Obligations.HeaderParses :=
  fun _ _ hw hh hch hcs => parseHeader_eq_ok.2 ⟨⟨⟨hw, hh⟩, hch, hcs⟩, rfl⟩

/-- Settles O54: what parses is a legal Header's bytes and the stream. -/
theorem headerAccepted : Obligations.HeaderAccepted := by
  intro file rest h hp
  obtain ⟨⟨⟨hw, hh⟩, hch, hcs⟩, hfile⟩ := parseHeader_eq_ok.1 hp
  exact ⟨hw, hh, hch, hcs, hfile⟩

/-! ### From the file to START -/

/-- A Header takes 14 bytes (20_memory.md R32). -/
@[simp] theorem headerBytes_length (h : Header) : (headerBytes h).length = 14 := rfl

/-- A file shorter than a Header fails (46_header_parser.md R143). -/
theorem parseHeader_of_short {file : List Byte} (hlen : file.length < 14) : ∃ c, parseHeader file = .error c := by
  rcases hp : parseHeader file with c | ⟨h, rest⟩
  · exact ⟨c, rfl⟩
  · obtain ⟨-, rfl⟩ := parseHeader_eq_ok.1 hp
    rw [List.length_append, headerBytes_length] at hlen
    omega

/-- With a move of the host pending, a step takes it (70_reset_and_hazards.md R194). -/
theorem step_of_host_cons {s : State} {m : HostMove} {rest : List HostMove} (hs : s.host = m :: rest) :
    step s = State.hostMove m { s with host := rest } := by
  unfold step State.moveOrStep; rw [hs]

/-- The only move pending is START, and a step performs it (45_end_marker.md R130). -/
theorem step_of_start_pending {s : State} (hs : s.host = []) (w h : BitVec 32) (str : List Byte) :
    step { s with host := s.host ++ [.start w h str] } = startDecode w h str s := by
  rw [step_of_host_cons (rest := []) (by rw [hs]; rfl), State.hostMove, ← hs]

/-- Settles O55: a file that parses leaves START as the one move pending; one that fails leaves no state to step. -/
theorem fileStartsBlock : Obligations.FileStartsBlock := by
  refine ⟨fun _ => parseHeader_of_short, fun b0 b1 b2 b3 rest hm => if_neg hm, fun s file hs => ?_⟩
  unfold State.submitFile
  rcases parseHeader file with c | ⟨h, stream⟩
  · rfl
  · exact step_of_start_pending hs h.width h.height stream

end Sys2Proof.Machine

end

section
/-! PROOF. The byte-level machine refines the chunk steps (47_fsm_refinement.md R162): the bytes of a chunk and then its
pixels lead where the chunk step leads, those of the end marker where END leads, and a chunk cut short fails alike. -/

namespace Sys2Proof.Machine

/-! ### One event, and events in a row (47_fsm_refinement.md R151) -/

section
variable {s t : State}

theorem State.event_of_byte {b : Byte} (hr : s.fsm.inReady = true) (hb : s.nextByte? = some b) :
    s.event = .next (s.byteEvent b) := by
  rw [State.event, if_pos hr, hb]

theorem State.event_of_cut (hr : s.fsm.inReady = true) (hb : s.nextByte? = none) :
    s.event = .next (s.raise .shortRead) := by
  rw [State.event, if_pos hr, hb]; rfl

theorem State.event_of_not_inReady (hr : s.fsm.inReady = false) : s.event = s.pixelEvent := by
  rw [State.event, if_neg (by simp [hr])]

/-- With no decode running no event is possible (47_fsm_refinement.md R160). -/
theorem State.event_of_resting (h : s.fsm.resting = true) : s.event = .next s := by
  unfold State.event State.pixelEvent
  cases hf : s.fsm with
  | idle | done | fail => rfl
  | op | litR | litG | litB | litA | luma2 | emit | run | endMark => simp [hf, Fsm.resting] at h

theorem State.events_succ (h : s.event = .next t) (n : Nat) : s.events (n + 1) = t.events n := by
  rw [State.events, h]

theorem State.events_one (h : s.event = .next t) : s.events 1 = .next t := State.events_succ h 0

theorem State.events_of_resting (n : Nat) (h : s.fsm.resting = true) : s.events n = .next s := by
  induction n with
  | zero => rfl
  | succ k ih => rw [State.events_succ (State.event_of_resting h), ih]

/-- A byte event takes the first of the bytes left (47_fsm_refinement.md R151). -/
theorem State.bytesLeft_byteEvent {b : Byte} {bs : List Byte} (hr : s.fsm.inReady = true) (hb : s.bytesLeft = b :: bs) :
    (s.byteEvent b).bytesLeft = bs := by
  have hdrop : s.stream.drop (s.sp + 1) = (s.stream.drop s.sp).drop 1 := List.drop_drop.symm
  rw [State.bytesLeft, (s.byteEvent_frame b).stream, s.byteEvent_sp b hr, hdrop, ← State.bytesLeft, hb]
  rfl

/-- With a byte left and awaited, the first of a row of events is that byte's. -/
theorem State.events_of_byte {b : Byte} {bs : List Byte} (hr : s.fsm.inReady = true) (hb : s.bytesLeft = b :: bs)
    (n : Nat) : s.events (n + 1) = (s.byteEvent b).events n :=
  State.events_succ (State.event_of_byte hr (by rw [State.nextByte_eq_head, hb]; rfl)) n

end

/-! ### The bytes of a chunk -/

/-- The byte events of `bs`, each met where a byte is awaited, lead from one state to another. -/
inductive State.Takes : List Byte → State → State → Prop where
  | nil (s : State) : Takes [] s s
  | cons {b : Byte} {bs : List Byte} {s t : State} (hr : s.fsm.inReady = true) (h : Takes bs (s.byteEvent b) t) :
      Takes (b :: bs) s t

/-- Bytes that come next in the stream and are awaited are the first of the events. -/
theorem State.Takes.events {bs rest : List Byte} {s t : State} (h : State.Takes bs s t)
    (hb : s.bytesLeft = bs ++ rest) (n : Nat) : s.events (n + bs.length) = t.events n := by
  induction h with
  | nil s => rfl
  | cons hr _ ih =>
    rw [List.length_cons, ← Nat.add_assoc, State.events_of_byte hr hb, ih (State.bytesLeft_byteEvent hr hb)]

/-- At a chunk boundary the byte goes to the op-code parser (47_fsm_refinement.md R155). -/
theorem State.byteEvent_of_op {s : State} (hf : s.fsm = .op) (b : Byte) : s.byteEvent b = (s.consume 1).opByte b := by
  rw [State.byteEvent, hf]

theorem State.Takes.control {b : Byte} {bs : List Byte} {s t : State} (hf : s.fsm = .op)
    (h : State.Takes bs ((s.consume 1).opByte b) t) : State.Takes (b :: bs) s t :=
  .cons (congrArg Fsm.inReady hf) (State.byteEvent_of_op hf b ▸ h)

/-! ### What the op-code parser makes of an encoded control byte (47_fsm_refinement.md R155) -/

theorem State.opByte_opRgb (s : State) :
    s.opByte Config.opRgb = { s with latches := { s.latches with isRgba := false }, fsm := .litR } := by
  rw [State.opByte, kindOf_eq_rgb_iff.2 rfl]

theorem State.opByte_opRgba (s : State) :
    s.opByte Config.opRgba = { s with latches := { s.latches with isRgba := true }, fsm := .litR } := by
  rw [State.opByte, kindOf_eq_rgba_iff.2 rfl]

theorem State.opByte_indexByte (idx : BitVec 6) (s : State) :
    s.opByte (0b00#2 ++ idx) = { s.pend (s.cacheRead idx) false with fsm := .emit } := by
  simp only [State.opByte, kindOf_indexByte, indexField_indexByte]

theorem State.opByte_diffByte (fr fg fb : BitVec 2) (s : State) :
    s.opByte (0b01#2 ++ fr ++ fg ++ fb) = { s.pend (diffPixel s.prev fr fg fb) true with fsm := .emit } := by
  simp only [State.opByte, kindOf_diffByte, diffRed_diffByte, diffGreen_diffByte, diffBlue_diffByte]

theorem State.opByte_lumaByte (fdg : BitVec 6) (s : State) :
    s.opByte (0b10#2 ++ fdg) = { s.latchLuma fdg with fsm := .luma2 } := by
  simp only [State.opByte, kindOf_lumaByte, lumaField_lumaByte]

/-- A run whose field the encoding admits passes the guard, and its overflow is raised before any pixel
(44_run_chunk.md R121, R123). -/
theorem State.opByte_runByte {fn : BitVec 6} (hfn : fn.toNat ≤ 61) (s : State) :
    s.opByte (0b11#2 ++ fn) =
      if s.cellsLeft < runLength fn then s.raise .runOverflow else { s.latchRun (fn + 1#6) with fsm := .run } := by
  have hguard : ¬(fn = 62#6 ∨ fn = 63#6) := by bv_omega
  simp only [State.opByte, kindOf_runByte hfn, runField_runByte, if_neg hguard]

/-! ### The payload of a chunk leaves its pixel waiting (47_fsm_refinement.md R156, R157) -/

theorem State.takes_rgbPayload (r g b : Byte) (s : State) :
    State.Takes [r, g, b] { s with latches := { s.latches with isRgba := false }, fsm := .litR }
      { ((s.consume 3).latchLiteral false r g b).pend ⟨r, g, b, s.prev.a⟩ true with fsm := .emit } := by
  refine .cons rfl (.cons rfl (.cons rfl ?_))
  simp only [State.byteEvent, State.litBByte, State.latchLiteral, State.pend, State.consume]
  exact .nil _

theorem State.takes_rgbaPayload (r g b a : Byte) (s : State) :
    State.Takes [r, g, b, a] { s with latches := { s.latches with isRgba := true }, fsm := .litR }
      { ((s.consume 4).latchLiteral true r g b).pend ⟨r, g, b, a⟩ true with fsm := .emit } := by
  refine .cons rfl (.cons rfl (.cons rfl (.cons rfl ?_)))
  simp only [State.byteEvent, State.litBByte, State.litAByte, State.latchLiteral, State.pend, State.consume, if_true]
  exact .nil _

theorem State.takes_lumaPayload (fdg : BitVec 6) (fdrg fdbg : BitVec 4) (s : State) :
    State.Takes [fdrg ++ fdbg] { s.latchLuma fdg with fsm := .luma2 }
      { ((s.consume 1).latchLuma fdg).pend (lumaPixel s.prev fdg fdrg fdbg) true with fsm := .emit } := by
  refine .cons rfl ?_
  simp only [State.byteEvent, State.luma2Byte, lumaHigh_lumaSecondByte, lumaLow_lumaSecondByte]
  exact .nil _

/-! ### The one-pixel chunks -/

/-- The pixel event of a pixel that waits is the emit-and-commit tail (47_fsm_refinement.md R157). -/
theorem State.event_of_pending {px : Pixel} {upd : Bool} {s : State} (hp : s.pos < s.total) :
    State.event { s.pend px upd with fsm := .emit } = .next (s.emit px upd) := by
  have hcommit : State.commitPending { s.pend px upd with fsm := .emit } = s.emit px upd := by cases upd <;> rfl
  rw [State.event_of_not_inReady rfl, ← hcommit]
  exact if_pos hp

/-- Bytes that leave a pixel waiting, and then that pixel, are the chunk that emits it. -/
theorem State.Takes.emits {bs rest : List Byte} {px : Pixel} {upd : Bool} {s u : State}
    (h : State.Takes bs s { u.pend px upd with fsm := .emit }) (hb : s.bytesLeft = bs ++ rest) (hf : s.fsm = .op)
    (hp : s.pos < s.total) (hu : u.pos < u.total) : s.events (bs.length + 1) = atChunk s (u.emit px upd) := by
  rw [Nat.add_comm, h.events hb, State.events_one (State.event_of_pending hu), atChunk_of hf hp]

/-! ### The pixels of a run -/

/-- One pixel and then the rest of a run are the run (44_run_chunk.md R122). -/
theorem State.runPixel_run {s : State} (n : Nat) (hp : s.pos < s.total) :
    ((s.runPixel.runWrite n).latchRun 0#6).advance n = ((s.runWrite (n + 1)).latchRun 0#6).advance (n + 1) := by
  have hcells : Memory.fill n (s.pos + 1#64).toNat s.prev (Memory.write s.pos.toNat s.prev s.buffer) =
      Memory.fill (n + 1) s.pos.toNat s.prev s.buffer := by
    rw [← State.runPixel_pos, (WritesCells.of_runPixel hp).pos_toNat]; rfl
  have hpos : s.pos + 1#64 + BitVec.ofNat 64 n = s.pos + BitVec.ofNat 64 (n + 1) := by
    rw [BitVec.add_assoc, ← BitVec.ofNat_add, Nat.add_comm]
  simp only [State.advance, State.latchRun, State.runWrite, State.runPixel, State.pixWrite, hcells, hpos]

/-- The pixel events of a run in progress write the cells the run still has (47_fsm_refinement.md R158). -/
theorem State.events_of_run (n : Nat) {s : State} (hf : s.fsm = .run) (hcnt : s.latches.runcnt.toNat = n + 1)
    (hfits : s.pos.toNat + (n + 1) ≤ s.total.toNat) :
    s.events (n + 1) = .next (((s.runWrite (n + 1)).latchRun 0#6).advance (n + 1)) := by
  have hp : s.pos < s.total := by rw [BitVec.lt_def]; omega
  have hevent : s.event = .next s.runPixel := by
    rw [State.event_of_not_inReady (congrArg Fsm.inReady hf), State.pixelEvent, hf]
    exact if_pos hp
  have hcnt' : (s.latches.runcnt - 1#6).toNat = n := by bv_omega
  rw [State.events_succ hevent, ← State.runPixel_run n hp]
  cases n with
  | zero =>
    have hlast : s.latches.runcnt - 1#6 = 0#6 := BitVec.eq_of_toNat_eq hcnt'
    have hend : ((s.runPixel.runWrite 0).latchRun 0#6).advance 0 = s.runPixel := by
      simp [State.advance, State.latchRun, State.runWrite, State.runPixel, Memory.fill, hlast]
    rw [hend]; rfl
  | succ k =>
    have hmore : s.runPixel.fsm = .run := if_neg (by bv_omega)
    refine State.events_of_run k hmore hcnt' ?_
    rw [(WritesCells.of_runPixel hp).pos_toNat, State.runPixel_total]
    omega

/-- What a run in progress does to the state at the chunk boundary: the counter and S_RUN are overwritten at its end. -/
theorem State.run_of_started (n : Nat) (l : BitVec 6) (s : State) :
    ((State.runWrite n { s.latchRun l with fsm := .run }).latchRun 0#6).advance n =
      ((s.runWrite n).latchRun 0#6).advance n := rfl

/-- The control byte of a run and then its pixels are the RUN, an overflow included (44_run_chunk.md R120, R123). -/
theorem State.events_run {fn : BitVec 6} {rest : List Byte} {s : State} (hfn : fn.toNat ≤ 61) (hf : s.fsm = .op)
    (hp : s.pos < s.total) (hb : s.bytesLeft = (0b11#2 ++ fn : Byte) :: rest) :
    s.events (runLength fn + 1) = exec (.run fn) s := by
  have hbyte : s.byteEvent (0b11#2 ++ fn) = _ := (State.byteEvent_of_op hf _).trans (State.opByte_runByte hfn _)
  rw [State.events_of_byte (congrArg Fsm.inReady hf) hb, exec_run hf hp, hbyte]
  split
  · next hover =>
    rw [State.runChunk_of_overflow hfn (by unfold State.cellsLeft at hover; omega)]
    exact State.events_of_resting _ rfl
  · next hc =>
    have hfits : (s.consume 1).pos.toNat + runLength fn ≤ (s.consume 1).total.toNat := by
      unfold State.cellsLeft runLength at *
      bv_omega
    have hcnt : (fn + 1#6).toNat = fn.toNat + 1 := by bv_omega
    rw [State.runChunk_of_fits hfn hfits, ← State.run_of_started _ (fn + 1#6)]
    exact State.events_of_run fn.toNat rfl hcnt hfits

/-! ### Every chunk -/

/-- Settles O42: a one-pixel chunk's bytes leave its pixel waiting, and its one pixel event emits it; a run's control
byte starts its pixels or raises the overflow. -/
theorem eventsAgreeWithChunk : Obligations.EventsAgreeWithChunk := by
  intro s i rest hf hp hwf hi hb
  cases i with
  | endMarker => cases hi
  | run fn => exact (congrArg s.events (Nat.add_comm _ _)).trans (State.events_run (of_decide_eq_true hwf) hf hp hb)
  | rgb r g b =>
    refine State.Takes.emits (u := (s.consume 4).latchLiteral false r g b) ?_ hb hf hp hp
    exact .control hf (State.opByte_opRgb _ ▸ State.takes_rgbPayload r g b (s.consume 1))
  | rgba r g b a =>
    refine State.Takes.emits (u := (s.consume 5).latchLiteral true r g b) ?_ hb hf hp hp
    exact .control hf (State.opByte_opRgba _ ▸ State.takes_rgbaPayload r g b a (s.consume 1))
  | index idx =>
    refine State.Takes.emits (u := s.consume 1) ?_ hb hf hp hp
    exact .control hf (State.opByte_indexByte idx _ ▸ .nil _)
  | diff fr fg fb =>
    refine State.Takes.emits (u := s.consume 1) ?_ hb hf hp hp
    exact .control hf (State.opByte_diffByte fr fg fb _ ▸ .nil _)
  | luma fdg fdrg fdbg =>
    refine State.Takes.emits (u := (s.consume 2).latchLuma fdg) ?_ hb hf hp hp
    exact .control hf (State.opByte_lumaByte fdg _ ▸ State.takes_lumaPayload fdg fdrg fdbg (s.consume 1))

/-! ### The end marker -/

/-- An end-marker byte after which the marker does not go on ends the decode (45_end_marker.md R131). -/
theorem State.resting_of_endByte {b : Byte} {s : State} (h : (s.endByte b).fsm ≠ .endMark) :
    (s.endByte b).fsm.resting = true := by
  rcases s.endByte_cases b with ⟨-, -, e⟩ | ⟨-, -, e⟩ | ⟨-, e⟩ <;> rw [e] at h ⊢
  · rfl
  · exact absurd rfl h
  · rfl

/-- The byte events in S_END are the bytes of END, and after a defect or the last byte no event is possible. -/
theorem State.events_of_endMark (n : Nat) {s : State} (hf : s.fsm = .endMark) : s.events n = .next (s.endBytes n) := by
  induction n generalizing s with
  | zero => rfl
  | succ k ih =>
    have hr : s.fsm.inReady = true := congrArg Fsm.inReady hf
    cases hb : s.nextByte? with
    | none =>
      rw [State.events_succ (State.event_of_cut hr hb), State.endBytes, hb]
      exact State.events_of_resting k rfl
    | some b =>
      have hbyte : s.byteEvent b = s.endByte b := by rw [State.byteEvent, hf]
      rw [State.events_succ (State.event_of_byte hr hb), hbyte, State.endBytes_succ hb]
      split
      · next hmore => exact ih hmore
      · next hend => exact State.events_of_resting k (State.resting_of_endByte hend)

/-- Settles O43: END takes the marker's bytes as the byte events do. -/
theorem eventsAgreeWithEnd : Obligations.EventsAgreeWithEnd := by
  intro s hf
  rw [State.events_of_endMark 8 hf]
  exact (execEndMarker_next.2 ⟨hf, rfl⟩).symm

/-! ### A stream cut inside a chunk -/

/-- How many payload bytes the chunk in progress still waits for (30_encoding.md R52, 47_fsm_refinement.md R156,
R157). -/
def State.payloadLeft (s : State) : Nat :=
  match s.fsm with
  | .litR => if s.latches.isRgba then 4 else 3
  | .litG => if s.latches.isRgba then 3 else 2
  | .litB => if s.latches.isRgba then 2 else 1
  | .litA => 1
  | .luma2 => 1
  | _ => 0

theorem State.inReady_of_payloadLeft {s : State} (h : 0 < s.payloadLeft) : s.fsm.inReady = true := by
  unfold State.payloadLeft at h
  cases hf : s.fsm with
  | litR | litG | litB | litA | luma2 => rfl
  | idle | op | emit | run | endMark | done | fail => simp [hf] at h

/-- The control byte of a chunk leaves its payload to wait for (47_fsm_refinement.md R155). -/
theorem State.payloadLeft_opByte (b : Byte) (s : State) : (s.opByte b).payloadLeft + 1 = (kindOf b).length := by
  unfold State.opByte
  cases kindOf b with
  | rgb | rgba | index | diff | luma => rfl
  | run =>
    dsimp only
    split
    · rfl
    · split <;> rfl

/-- Each payload byte leaves one less to wait for (47_fsm_refinement.md R156, R157). -/
theorem State.payloadLeft_byteEvent (b : Byte) {s : State} (h : 0 < s.payloadLeft) :
    (s.byteEvent b).payloadLeft + 1 = s.payloadLeft := by
  unfold State.payloadLeft at h
  cases hf : s.fsm with
  | litR | litG | litB | litA | luma2 =>
    cases hk : s.latches.isRgba <;>
      simp [State.payloadLeft, State.byteEvent, State.litBByte, State.litAByte, State.luma2Byte, hf, hk]
  | idle | op | emit | run | endMark | done | fail => simp [hf] at h

/-- The events on a stream that ends inside the chunk in progress take what is left of it and fail, and write neither
pixel nor register (47_fsm_refinement.md R154). -/
theorem State.events_of_cut {bs : List Byte} {s : State} (hr : s.fsm.inReady = true) (hb : s.bytesLeft = bs)
    (hcut : ∀ b rest, bs = b :: rest → rest.length < (s.byteEvent b).payloadLeft) :
    ∃ u, s.events (bs.length + 1) = .next (u.raise .shortRead) ∧ EndFrame s u ∧ u.sp = s.sp + bs.length := by
  induction bs generalizing s with
  | nil =>
    have hnone : s.nextByte? = none := by rw [State.nextByte_eq_head, hb]; rfl
    exact ⟨s, State.events_one (State.event_of_cut hr hnone), .refl s, rfl⟩
  | cons b bs ih =>
    have hleft := hcut b bs rfl
    have hwait : 0 < (s.byteEvent b).payloadLeft := Nat.zero_lt_of_lt hleft
    obtain ⟨u, hu, hframe, hsp⟩ :=
      ih (State.inReady_of_payloadLeft hwait) (State.bytesLeft_byteEvent hr hb) fun c rest hbs => by
        have hnext := State.payloadLeft_byteEvent c hwait
        rw [hbs, List.length_cons] at hleft
        omega
    refine ⟨u, (State.events_of_byte hr hb _).trans hu, (s.byteEvent_frame b).trans hframe, ?_⟩
    rw [hsp, s.byteEvent_sp b hr, List.length_cons]
    omega

/-- What keeps pixels and registers changes the cursor, `fsm`, the latches and `cause` only. -/
theorem EndFrame.eq {s t : State} (h : EndFrame s t) :
    { s with sp := t.sp, cause := t.cause, fsm := t.fsm, latches := t.latches } = t := by
  cases s
  cases t
  obtain ⟨rfl, rfl, rfl, rfl, rfl, rfl, rfl, rfl, rfl, rfl, rfl⟩ := h
  rfl

/-- Settles O44: at both levels the bytes left are consumed and a short read is raised; only the latches keep what the
byte-level machine took. -/
theorem eventsAgreeOnShortRead : Obligations.EventsAgreeOnShortRead := by
  intro s hf hs hsp hcut
  have hpayload (b : Byte) (rest : List Byte) (hb : s.bytesLeft = b :: rest) :
      rest.length < (s.byteEvent b).payloadLeft := by
    have hlen := hcut b rest hb
    rw [hb, List.length_cons, ← State.payloadLeft_opByte b (s.consume 1), ← State.byteEvent_of_op hf] at hlen
    omega
  obtain ⟨u, hu, hframe, husp⟩ := State.events_of_cut (congrArg Fsm.inReady hf) rfl hpayload
  have hend : u.sp = s.stream.length := by
    rw [husp, State.bytesLeft, List.length_drop, Nat.add_sub_cancel' hsp]
  refine ⟨_, _, hu, shortRead s hs hf hsp hcut, ?_⟩
  rw [← hframe.eq, ← hend]
  rfl

end Sys2Proof.Machine

end

section
/-! PROOF. The handshake of the byte-level machine: which event a cycle is, the stalls, the resting states and the table
of states (47_fsm_refinement.md R150 to R153, R160, R163). -/

namespace Sys2Proof.Machine

/-! ### Inputs of a cycle -/

theorem Fsm.resting_of_outValid {f : Fsm} (h : f.outValid = true) : f.resting = false := by
  cases f with
  | emit | run => rfl
  | idle | op | litR | litG | litB | litA | luma2 | endMark | done | fail => cases h

theorem Fsm.inReady_of_outValid {f : Fsm} (h : f.outValid = true) : f.inReady = false := by
  cases f with
  | emit | run => rfl
  | idle | op | litR | litG | litB | litA | luma2 | endMark | done | fail => cases h

/-- The block never takes a byte and offers a write together (47_fsm_refinement.md R151). -/
theorem Fsm.not_inReady_and_outValid (f : Fsm) : (f.inReady && f.outValid) = false := by
  cases f <;> rfl

/-- A byte offered in a running decode that is not the stream's next alters the stream (70_reset_and_hazards.md
R195). -/
theorem State.altersStream_of_other {i : Inputs} {s : State} (hrun : s.fsm.resting = false) (hv : i.inValid = true)
    (h : s.nextByte? ≠ some i.inData) : s.altersStream i = true := by
  simp [State.altersStream, hrun, hv, h]

/-- A cycle alters no stream if it offers the stream's next byte or none. -/
theorem State.altersStream_of_offer {i : Inputs} {s : State} (h : i.inValid = true → s.nextByte? = some i.inData) :
    s.altersStream i = false := by
  cases hv : i.inValid with
  | false => exact State.altersStream_of_not_valid hv s
  | true => exact State.altersStream_of_next (h hv)

/-- In a running decode `in_eos` ends the stream at `sp` (60_exceptions.md R181). -/
theorem State.takeEos_of_eos {i : Inputs} {s : State} (he : i.inEos = true) (hrun : s.fsm.resting = false) :
    s.takeEos i = { s with stream := s.stream.take s.sp } := by
  rw [State.takeEos, he, hrun]; rfl

/-! ### The handshake, by state and inputs (47_fsm_refinement.md R151, R163) -/

section
variable {i : Inputs} {s : State}

theorem State.handshake_of_altered (h : s.altersStream i = true) : s.handshake i = .refused .streamAltered := by
  rw [State.handshake, if_pos h]

theorem State.handshake_of_byte (hr : s.fsm.inReady = true) (hv : i.inValid = true)
    (hb : s.nextByte? = some i.inData) : s.handshake i = .next (s.byteEvent i.inData) := by
  simp [State.handshake, State.altersStream_of_next hb, hr, hv]

theorem State.handshake_of_eos (hr : s.fsm.inReady = true) (hv : i.inValid = false) (he : i.inEos = true) :
    s.handshake i = .next (s.raise .shortRead) := by
  simp [State.handshake, hr, hv, he, State.eosEvent]

theorem State.handshake_of_no_byte (hr : s.fsm.inReady = true) (hv : i.inValid = false) (he : i.inEos = false) :
    s.handshake i = .next s := by
  simp [State.handshake, hr, hv, he]

theorem State.handshake_of_outValid (ho : s.fsm.outValid = true) (ha : s.altersStream i = false) :
    s.handshake i = if i.outReady then s.pixelEvent else .next s := by
  simp [State.handshake, ha, ho, Fsm.inReady_of_outValid ho]

/-! ### A cycle without reset and START (47_fsm_refinement.md R150) -/

theorem State.cycle_of_handshake (hrst : i.rst = false) (hstart : i.start = false)
    (hve : (i.inValid && i.inEos) = false) : s.cycle i = (s.takeEos i).handshake i := by
  simp only [State.cycle, hrst, hstart, hve, Bool.false_eq_true, if_false]

theorem State.cycle_of_not_eos (hrst : i.rst = false) (hstart : i.start = false) (he : i.inEos = false) :
    s.cycle i = s.handshake i := by
  rw [State.cycle_of_handshake hrst hstart (by simp [he]), State.takeEos_of_not_eos he]

/-- With `in_eos` a cycle of a running decode is the handshake on the stream that ends at `sp` (60_exceptions.md
R181). -/
theorem State.cycle_of_eos (hrst : i.rst = false) (hstart : i.start = false) (he : i.inEos = true)
    (hv : i.inValid = false) (hrun : s.fsm.resting = false) :
    s.cycle i = State.handshake i { s with stream := s.stream.take s.sp } := by
  rw [State.cycle_of_handshake hrst hstart (by simp [hv]), State.takeEos_of_eos he hrun]

/-- With `in_eos` while a write is offered, a cycle accepts it or waits, on the stream that ends at `sp`. -/
theorem State.cycle_of_eos_outValid (hrst : i.rst = false) (hstart : i.start = false) (he : i.inEos = true)
    (hv : i.inValid = false) (ho : s.fsm.outValid = true) :
    s.cycle i = if i.outReady then State.pixelEvent { s with stream := s.stream.take s.sp }
      else .next { s with stream := s.stream.take s.sp } := by
  rw [State.cycle_of_eos hrst hstart he hv (Fsm.resting_of_outValid ho)]
  exact State.handshake_of_outValid ho (State.altersStream_of_not_valid hv _)

theorem State.cycle_of_not_eos_outValid (hrst : i.rst = false) (hstart : i.start = false) (he : i.inEos = false)
    (ho : s.fsm.outValid = true) (hb : i.inValid = true → s.nextByte? = some i.inData) :
    s.cycle i = if i.outReady then s.pixelEvent else .next s := by
  rw [State.cycle_of_not_eos hrst hstart he, State.handshake_of_outValid ho (State.altersStream_of_offer hb)]

theorem State.cycle_of_resting (hrst : i.rst = false) (hstart : i.start = false)
    (hve : (i.inValid && i.inEos) = false) (h : s.fsm.resting = true) : s.cycle i = .next s := by
  rw [State.cycle_of_handshake hrst hstart hve, State.takeEos_of_resting i h, State.handshake_of_resting i h]

end

/-! ### The stalls -/

/-- No decode runs exactly in S_IDLE, S_DONE and S_FAIL (47_fsm_refinement.md R160). -/
theorem Fsm.resting_iff (f : Fsm) : f.resting = true ↔ f = .idle ∨ f = .done ∨ f = .fail := by
  cases f <;> decide

/-- Settles O45: where no byte and no write meets its answer the handshake keeps the state, and `in_eos` acts on the
stream before it. -/
theorem stallChangesNothing : Obligations.StallChangesNothing := by
  refine fun s i hrst hstart => ⟨fun hr hv he => ?_, fun ho hwait he hb => ?_, fun ho hwait he hv => ?_,
    fun hf hve => ?_⟩
  · rw [State.cycle_of_not_eos hrst hstart he, State.handshake_of_no_byte hr hv he]
  · rw [State.cycle_of_not_eos_outValid hrst hstart he ho hb, hwait]; rfl
  · rw [State.cycle_of_eos_outValid hrst hstart he hv ho, hwait]; rfl
  · exact State.cycle_of_resting hrst hstart hve (s.fsm.resting_iff.2 hf)

/-! ### The resting states, START and reset -/

/-- With no decode running the block neither takes a byte nor offers a pixel (47_fsm_refinement.md R160). -/
theorem Fsm.silent_of_resting {f : Fsm} (h : f.resting = true) : f.inReady = false ∧ f.outValid = false := by
  cases f with
  | idle | done | fail => exact ⟨rfl, rfl⟩
  | op | litR | litG | litB | litA | luma2 | emit | run | endMark => cases h

/-- A cycle with `start` performs START, whatever else the host offers (47_fsm_refinement.md R160). -/
theorem State.cycle_of_start {i : Inputs} {s : State} (hrst : i.rst = false) (hstart : i.start = true)
    (hve : (i.inValid && i.inEos) = false) : s.cycle i = startDecode i.cfgWidth i.cfgHeight i.startStream s := by
  simp only [State.cycle, hrst, hstart, hve, Bool.false_eq_true, if_false, if_true]

/-- Settles O46: no event is possible while no decode runs, and a cycle looks at `rst` first, then at `start`. -/
theorem restingStates : Obligations.RestingStates := by
  refine ⟨fun s hf => ?_, fun s i hrst _ => ⟨?_, rfl⟩⟩
  · have hrest := s.fsm.resting_iff.2 hf
    obtain ⟨hr, ho⟩ := Fsm.silent_of_resting hrest
    refine ⟨hr, ho, State.event_of_resting hrest, fun i hrst hstart hve => ?_⟩
    exact State.cycle_of_start hrst hstart hve
  · rw [State.cycle, if_pos hrst]

/-! ### Which event a cycle is -/

/-- A byte other than the stream's next has no move in a running decode (70_reset_and_hazards.md R194, R195). -/
theorem State.cycle_of_altered {i : Inputs} {s : State} (hrst : i.rst = false) (hstart : i.start = false)
    (hrun : s.fsm.resting = false) (hv : i.inValid = true) (he : i.inEos = false) (h : s.nextByte? ≠ some i.inData) :
    s.cycle i = .refused .streamAltered := by
  rw [State.cycle_of_not_eos hrst hstart he, State.handshake_of_altered (State.altersStream_of_other hrun hv h)]

/-- Settles O47: each clause is the handshake's branch for its state and inputs, and a host that answers at once has the
same event. -/
theorem handshakeEvents : Obligations.HandshakeEvents := by
  refine ⟨Fsm.not_inReady_and_outValid, fun s i hrst hstart => ⟨fun hr hv he hb => ?_, fun hr hv he => ?_,
    fun ho hready he hb => ?_, fun ho hready he hv => ?_, fun hf hv he hb => ?_⟩⟩
  · rw [State.event_of_byte hr hb, State.cycle_of_not_eos hrst hstart he, State.handshake_of_byte hr hv hb]
    exact ⟨rfl, rfl⟩
  · rw [State.cycle_of_eos hrst hstart he hv (Fsm.resting_of_inReady hr)]
    exact State.handshake_of_eos hr hv he
  · rw [State.event_of_not_inReady (Fsm.inReady_of_outValid ho),
      State.cycle_of_not_eos_outValid hrst hstart he ho hb, if_pos hready]
    exact ⟨rfl, rfl⟩
  · rw [State.cycle_of_eos_outValid hrst hstart he hv ho, if_pos hready]
  · have hrun : s.fsm.resting = false := hf.elim Fsm.resting_of_inReady Fsm.resting_of_outValid
    exact State.cycle_of_altered hrst hstart hrun hv he hb

/-! ### The table of states -/

/-- No pixel is on the output port while `out_valid` is 0 (log 14). -/
theorem State.pixelOut_of_not_outValid {s : State} (h : s.fsm.outValid = false) : s.pixelOut = none := by
  unfold State.pixelOut
  cases hf : s.fsm with
  | idle | op | litR | litG | litB | litA | luma2 | endMark | done | fail => rfl
  | emit | run => simp [hf, Fsm.outValid] at h

/-- Settles O49: the table is read off state by state, and the pixel offered off `pixelOut`. -/
theorem fsmTable : Obligations.FsmTable := by
  refine ⟨fun f => by cases f <;> exact ⟨by decide, rfl⟩, fun s => ⟨rfl, rfl, rfl, State.pixelOut_of_not_outValid,
    fun hf => ⟨_, State.pixelOut_of_outValid (congrArg Fsm.outValid hf), ?_, rfl⟩,
    fun hf => ⟨_, State.pixelOut_of_outValid (congrArg Fsm.outValid hf), ?_, rfl⟩⟩, by decide, by decide⟩
  · exact if_pos hf
  · exact if_neg (by rw [hf]; nofun)

end Sys2Proof.Machine

end

section
/-! PROOF. Every step keeps the canonical form of the pixel buffer: its cells in strictly rising order (20_memory.md
section 4; log 4). -/

namespace Sys2Proof.Machine

/-- The canonical form speaks of the buffer alone. -/
theorem BufferInv.congr {s t : State} (h : BufferInv s) (e : t.buffer = s.buffer) : BufferInv t := by
  rw [BufferInv, e]
  exact h

/-- A written pixel takes its place among the cells listed (20_memory.md section 4). -/
theorem BufferInv.of_write {p : Nat} {px : Pixel} {s t : State} (h : BufferInv s)
    (e : t.buffer = Memory.write p px s.buffer) : BufferInv t := by
  rw [BufferInv, e]
  exact Memory.write_wf p px s.buffer h

theorem BufferInv.emit {s : State} (h : BufferInv s) (px : Pixel) (upd : Bool) : BufferInv (s.emit px upd) :=
  h.of_write (s.emit_buffer px upd)

/-- RUN raises and writes no cell, or fills cells one after the other (44_run_chunk.md R120, R122). -/
theorem BufferInv.runChunk {s : State} (h : BufferInv s) (fn : BitVec 6) : BufferInv (s.runChunk fn) := by
  rcases s.runChunk_cases fn with ⟨-, e⟩ | ⟨-, -, e⟩ | ⟨-, -, e⟩ <;> rw [e]
  · exact h
  · exact h
  · exact Memory.fill_wf (runLength fn) s.pos.toNat s.prev s.buffer h

theorem BufferInv.exec {i : Instr} {s t : State} (h : BufferInv s) (e : exec i s = .next t) : BufferInv t := by
  rcases exec_next e with ⟨-, -, l, px, upd, -, rfl⟩ | ⟨-, -, fn, -, rfl⟩ | ⟨-, rfl⟩
  · have hu : BufferInv { s with sp := s.sp + i.length, latches := l } := h
    exact hu.emit px upd
  · exact BufferInv.runChunk (s := s.consume 1) h fn
  · exact h.congr (s.endBytes_frame 8).buffer

/-- Every part of a step keeps the canonical form; START hands over a buffer of which no cell is known. -/
theorem bufferInv_kept : KeptByParts BufferInv where
  host _ _ hs := hs
  start _ _ _ _ _ _ _ _ := rfl
  reset _ hs := hs
  endStream _ _ hs := hs
  chunk _ _ _ _ hs _ _ e := hs.exec e
  shortChunk _ hs _ := hs
  byte s b hs _ _ := hs.congr (s.byteEvent_frame b).buffer
  shortByte _ hs _ := hs
  pixel s hs _ _ := hs.emit s.latches.cur s.latches.upd
  runPixel s hs _ _ := hs.of_write s.runPixel_buffer

/-- Settles O35: each part of a step leaves the buffer, empties it, or writes cells into their places. -/
theorem stepKeepsBufferForm : Obligations.StepKeepsBufferForm := fun _ _ hs h => bufferInv_kept.step hs h

end Sys2Proof.Machine

end

section
/-! PROOF. When a chunk's meaning runs, how a decode is cut off, and what is left then: violations, the early end of
the stream, hardware reset (40_chunk_cycle.md R70; 60_exceptions.md R172, R181; 70_reset_and_hazards.md R190). -/

namespace Sys2Proof.Machine

/-! ### The precondition of a chunk -/

/-- Every chunk's meaning is guarded by the one precondition (40_chunk_cycle.md R70). -/
theorem exec_eq_atChunk {i : Instr} (hi : i.readAs = .chunk) (s : State) : ∃ t, exec i s = atChunk s t := by
  cases i with
  | endMarker => cases hi
  | rgb | rgba | index | diff | luma | run => exact ⟨_, rfl⟩

theorem atChunk_of_not_op {s : State} (t : State) (hf : s.fsm ≠ .op) :
    atChunk s t = .refused .notAtChunkBoundary := if_neg hf

theorem atChunk_of_full {s : State} (t : State) (hf : s.fsm = .op) (hp : ¬ s.pos < s.total) :
    atChunk s t = .fault .noCellLeft := by
  rw [atChunk, if_pos hf, if_neg hp]

/-- Settles O22: outside the precondition the guard of every chunk answers, inside it the chunk does. -/
theorem chunkPrecondition : Obligations.ChunkPrecondition := by
  intro i s hi
  obtain ⟨t, ht⟩ := exec_eq_atChunk hi s
  refine ⟨fun hf => ?_, fun hf hp => ?_, fun hf hp => exec_chunk_answers hi hf hp⟩
  · rw [ht, atChunk_of_not_op t hf]
  · rw [ht, atChunk_of_full t hf hp]

/-! ### Violations -/

/-- Settles O29: `raise` is its two field updates, and a failed decode has ended. -/
theorem violationEntry : Obligations.ViolationEntry :=
  ⟨fun _ _ => ⟨rfl, rfl⟩, fun _ hf hs => step_of_ended (.inr hf) hs⟩

/-! ### The early end of the stream -/

/-- At a chunk boundary where the host has ended the stream, the read of a control byte is a short read and `sp` stays
(60_exceptions.md R181). -/
theorem step_endStream_zero {s : State} (hs : s.host = []) (hf : s.fsm = .op) (hsp : CursorInv s) :
    step (s.endStream 0) = .next { s.endStream 0 with cause := .shortRead, fsm := .fail } := by
  have hlen : (s.endStream 0).stream.length = s.sp := by
    rw [State.endStream_stream, List.length_take, Nat.add_zero, Nat.min_eq_left hsp]
  have hleft : (s.endStream 0).bytesLeft = [] := List.drop_of_length_le hlen.le
  rw [shortRead (s.endStream 0) hs hf (hsp.endStream 0) (by rw [hleft]; nofun), hlen]
  rfl

/-- Settles O48: `in_eos` answers a waiting read with EOS; the host's move leaves a stream that ends at `sp`, and the
next step is a short read of it. -/
theorem cancelByEndOfStream : Obligations.CancelByEndOfStream := by
  refine ⟨fun s i hr hrst hstart hv he => ?_, fun s hf hs hsp => ?_⟩
  · have hcycle := State.cycle_of_eos hrst hstart he hv (Fsm.resting_of_inReady hr)
    exact ⟨_, hcycle.trans (State.handshake_of_eos hr hv he), rfl, rfl, rfl⟩
  · have hmove : step s = .next (State.endStream 0 { s with host := [] }) := step_of_host_cons hs
    have hread := step_endStream_zero (s := { s with host := [] }) rfl hf hsp
    exact ⟨_, (run_next hmove 1).trans (run_next hread 0), rfl, rfl, rfl⟩

/-! ### Hardware reset -/

/-- Settles O1: every field but the cache is read off `hardReset`; the cache is the initial one. -/
theorem hardResetLoads : Obligations.HardResetLoads := by
  refine ⟨fun s => ⟨rfl, State.cacheRead_initial _ s.hardReset_cache, rfl, rfl, rfl, rfl, rfl, rfl, rfl⟩,
    fun s rest hs => ?_⟩
  rw [step_of_host_cons hs, State.hostMove]

end Sys2Proof.Machine

end
